-- ==== Sys2Proof/Word.lean ====
section
/-! DEFINITION. The word types of the block (00_scope.md R9, R12, R13): an item on the serial channel, a
character of a line and a cell of the image are all one 8-bit byte. -/

namespace Sys2Proof

/-- A byte, an unsigned integer in 0..255 (00_scope.md R12). -/
abbrev Byte := BitVec 8

/-- A line of the input text: a finite sequence of 8-bit characters, counted from 0 (00_scope.md R13). -/
abbrev Line := List Byte

end Sys2Proof
end

