-- ==== Sys2Proof/Syntax.lean ====
section
/-! DEFINITION. The instructions of the block: one constructor for each row of spec/opcode_table.json, the decoded
record that the REC rows carry, and the slots, the places of the protocol that tell which item is read there. -/

namespace Sys2Proof

/-- A decoded record line, SBL "Record" (10_state.md R33). `rtype` is the spec's REC.type. -/
structure Record where
  len : BitVec 8
  addr : BitVec 16
  rtype : BitVec 8
  payload : List Byte
  csum : BitVec 8
  deriving DecidableEq, Repr

/-- The rows of spec/opcode_table.json. The REC rows carry the record of their line (30_encoding.md R90). The TX
and RX rows carry nothing: their operands are registers (30_encoding.md R98 to R103) and the byte they expect is
fixed (30_encoding.md R105). -/
inductive Instr where
  /-- REC.DATA, record type 0x00 (40_record_decoder.md R141). -/
  | recData (r : Record)
  /-- REC.EOF, record type 0x01 (40_record_decoder.md R142). -/
  | recEof (r : Record)
  /-- REC.SKIP, record types 0x02 to 0xFF (40_record_decoder.md R143). -/
  | recSkip (r : Record)
  /-- TX.INIT (43_upload_protocol.md R205). -/
  | txInit
  /-- TX.SOF (43_upload_protocol.md R210). -/
  | txSof
  /-- TX.ADDR (43_upload_protocol.md R212). -/
  | txAddr
  /-- TX.DATA (43_upload_protocol.md R214). -/
  | txData
  /-- TX.CRC (43_upload_protocol.md R217). -/
  | txCrc
  /-- TX.REBOOT (43_upload_protocol.md R224). -/
  | txReboot
  /-- RX.INIT_ACK (43_upload_protocol.md R206). -/
  | rxInitAck
  /-- RX.ACK at the SOF step (43_upload_protocol.md R211). -/
  | rxAckSof
  /-- RX.ACK at the ADDR step (43_upload_protocol.md R213). -/
  | rxAckAddr
  /-- RX.ACK at the DATA step (43_upload_protocol.md R215). -/
  | rxAckData
  /-- RX.CRC_ACK (43_upload_protocol.md R218). -/
  | rxCrcAck
  /-- RX.ACK at the page-complete step (43_upload_protocol.md R220). -/
  | rxAckPage
  deriving DecidableEq, Repr

/-- The place of the protocol where an item is met. Items carry no header: "A frame is identified only by its place
in the fixed sequence of the protocol" (30_encoding.md R96), and a reply by the state that expects it (R105). -/
inductive Slot where
  /-- One record line (30_encoding.md R90). -/
  | line
  | initFrame
  | sofFrame
  | addrFrame
  /-- The DATA frame of `pageSize` bytes (30_encoding.md R101). -/
  | dataFrame (pageSize : Nat)
  | crcFrame
  | rebootFrame
  | initReply
  | sofReply
  | addrReply
  | dataReply
  | crcReply
  | pageReply
  deriving DecidableEq, Repr

/-- The values the field columns of the TX rows name: the configured init bytes, the page address, the page's bytes
and their CRC (30_encoding.md R98, R100 to R102). -/
structure FrameOperands where
  initSeq : List Byte
  curAddr : BitVec 32
  page : List Byte
  crc : BitVec 32
  deriving DecidableEq, Repr

/-- Why an item does not decode. -/
inductive DecodeError where
  /-- No start marker, a field that is no hex byte, or a line too short (40_record_decoder.md R131, R133). -/
  | malformedLine
  /-- The checksum computed from the fields against the one written (40_record_decoder.md R137). -/
  | checksumMismatch (expected actual : Byte)
  /-- The bytes are no frame of the slot (30_encoding.md R111). -/
  | notTheFrame
  /-- The byte is not the one the slot expects (30_encoding.md R106). -/
  | wrongReply
  deriving DecidableEq, Repr

/-- The slot an instruction is met in; `pageSize` is CFG.PAGE_SIZE (30_encoding.md R97, R105). -/
def Instr.slot (pageSize : Nat) : Instr → Slot
  | .recData _ => .line
  | .recEof _ => .line
  | .recSkip _ => .line
  | .txInit => .initFrame
  | .txSof => .sofFrame
  | .txAddr => .addrFrame
  | .txData => .dataFrame pageSize
  | .txCrc => .crcFrame
  | .txReboot => .rebootFrame
  | .rxInitAck => .initReply
  | .rxAckSof => .sofReply
  | .rxAckAddr => .addrReply
  | .rxAckData => .dataReply
  | .rxCrcAck => .crcReply
  | .rxAckPage => .pageReply

end Sys2Proof
end

