-- ==== Sys2Proof/Machine/Checksum.lean ====
section
/-! DEFINITION. The record checksum (30_encoding.md R94, 40_record_decoder.md R137). -/

namespace Sys2Proof.Machine

/-- The sum of a sequence of bytes, masked to 8 bits: `S` of 40_record_decoder.md R137. -/
def byteSum : List Byte → Byte
  | [] => 0#8
  | b :: bs => b + byteSum bs

/-- `E <- ((~S) + 1) & 0xFF` (40_record_decoder.md R137). -/
def twosComplement (s : Byte) : Byte := ~~~s + 1#8

/-- REC.addr[15:8], the byte AH (30_encoding.md R91). -/
def addrHigh (a : BitVec 16) : Byte := a.extractLsb' 8 8

/-- REC.addr[7:0], the byte AL (30_encoding.md R91). -/
def addrLow (a : BitVec 16) : Byte := a.extractLsb' 0 8

/-- `REC.addr = 256 * AH + AL` (20_memory.md R64). -/
def addrOf (ah al : Byte) : BitVec 16 := ah ++ al

/-- The byte-valued fields the checksum covers: L, AH, AL, TT and the payload (30_encoding.md R94). -/
def checkedBytes (r : Record) : List Byte :=
  r.len :: addrHigh r.addr :: addrLow r.addr :: r.rtype :: r.payload

/-- The checksum the fields of a record require (40_record_decoder.md R137). -/
def checksum (r : Record) : Byte := twosComplement (byteSum (checkedBytes r))

end Sys2Proof.Machine
end

