-- ==== Sys2Proof/Machine/Constants.lean ====
section
/-! DEFINITION. The numeric literals of the encodings, each defined once (30_encoding.md R110). The spec calls them
unaudited (00_scope.md R11; assumption log 21). -/

namespace Sys2Proof.Machine

/-- START_MARKER, the character `:`. -/
def startMarker : Byte := 0x3A#8

/-- TYPE_DATA. -/
def typeData : Byte := 0x00#8

/-- TYPE_EOF. -/
def typeEof : Byte := 0x01#8

/-- CMD_SOF. -/
def cmdSof : Byte := 0xA0#8

/-- CMD_REBOOT. -/
def cmdReboot : Byte := 0xA2#8

/-- ACK. -/
def ackByte : Byte := 0x55#8

/-- CRC_ACK. -/
def crcAckByte : Byte := 0x77#8

/-- INIT_ACK. -/
def initAckByte : Byte := 0x01#8

/-- ADDR_BYTES. -/
def addrBytes : Nat := 4

/-- CRC_BYTES. -/
def crcBytes : Nat := 4

end Sys2Proof.Machine
end

