-- ==== Sys2Proof/WellFormed.lean ====
section
/-! DEFINITION. Which terms of `Instr` stand for an item the block can meet (40_record_decoder.md R138, R140). -/

namespace Sys2Proof

/-- REC.payload has REC.len bytes (10_state.md R33, 40_record_decoder.md R138). -/
def Record.lengthOk (r : Record) : Bool := r.payload.length == r.len.toNat

/-- "a Record with an invalid checksum is never constructed" (10_state.md R33). -/
def Record.checksumOk (r : Record) : Bool := r.csum == Machine.checksum r

/-- The invariant of a decoded record (40_record_decoder.md R138). -/
def Record.wellFormed (r : Record) : Bool := r.lengthOk && r.checksumOk

/-- An instruction the block can meet: its record is well formed and carries the type its row names
(30_encoding.md R93). The TX and RX rows have no operand to check. -/
def Instr.wellFormed : Instr → Bool
  | .recData r => r.wellFormed && r.rtype == Machine.typeData
  | .recEof r => r.wellFormed && r.rtype == Machine.typeEof
  | .recSkip r => r.wellFormed && (r.rtype != Machine.typeData && r.rtype != Machine.typeEof)
  | .txInit => true
  | .txSof => true
  | .txAddr => true
  | .txData => true
  | .txCrc => true
  | .txReboot => true
  | .rxInitAck => true
  | .rxAckSof => true
  | .rxAckAddr => true
  | .rxAckData => true
  | .rxCrcAck => true
  | .rxAckPage => true

end Sys2Proof
end

