-- ==== Sys2Proof/Decode.lean ====
section
/-! DEFINITION. The decoder of the three formats (30_encoding.md): a record line (HRD, 40_record_decoder.md), a
frame and a reply, each read in its slot; then the encoder, from the same tables; then the host's view of the
decoder on the words of spec/opcode_table.json. -/

namespace Sys2Proof

/-! ## Hexadecimal text (00_scope.md R15) -/

/-- `hexval(c)`: 0..9, A..F and a..f, undefined for any other character (00_scope.md R15). -/
def hexval (c : Byte) : Option Nat :=
  if 0x30 ≤ c.toNat ∧ c.toNat ≤ 0x39 then some (c.toNat - 0x30)
  else if 0x41 ≤ c.toNat ∧ c.toNat ≤ 0x46 then some (c.toNat - 0x41 + 10)
  else if 0x61 ≤ c.toNat ∧ c.toNat ≤ 0x66 then some (c.toNat - 0x61 + 10)
  else none

/-- `hexbyte(line, p) = 16 * hexval(line[p]) + hexval(line[p+1])`, undefined where a position lies beyond the line
or a character has no `hexval` (00_scope.md R15). -/
def hexbyte (text : Line) (p : Nat) : Option Byte :=
  match text[p]?, text[p + 1]? with
  | some c, some d =>
    match hexval c, hexval d with
    | some h, some l => some (BitVec.ofNat 8 (16 * h + l))
    | _, _ => none
  | _, _ => none

/-- `n` hex bytes from position `p`, two characters at a time (40_record_decoder.md R134). -/
def hexbytes (text : Line) (p : Nat) : Nat → Option (List Byte)
  | 0 => some []
  | n + 1 =>
    match hexbyte text p, hexbytes text (p + 2) n with
    | some b, some bs => some (b :: bs)
    | _, _ => none

/-! ## Decode of one line (40_record_decoder.md R130 to R139) -/

/-- The line begins with the start marker (40_record_decoder.md R131). -/
def hasStartMarker (text : Line) : Bool := text[0]? == some Machine.startMarker

/-- The fields of a line at the positions of 30_encoding.md R91, not yet checked against the checksum; `none` where
some `hexbyte` is undefined (40_record_decoder.md R132 to R135). Characters from position `11 + 2 * L` on are never
looked at (R136). -/
def parseFields (text : Line) : Option Record :=
  match hexbyte text 1, hexbyte text 3, hexbyte text 5, hexbyte text 7 with
  | some l, some ah, some al, some tt =>
    match hexbytes text 9 l.toNat, hexbyte text (9 + 2 * l.toNat) with
    | some p, some cc => some ⟨l, Machine.addrOf ah al, tt, p, cc⟩
    | _, _ => none
  | _, _, _, _ => none

/-- `decode(line)`: start marker, then the fields, then the checksum (40_record_decoder.md R131, R133, R137, in the
order of R139). -/
def decodeRecord (text : Line) : Except DecodeError Record :=
  if hasStartMarker text then
    match parseFields text with
    | none => .error .malformedLine
    | some r =>
      if Machine.checksum r = r.csum then .ok r
      else .error (.checksumMismatch (Machine.checksum r) r.csum)
  else .error .malformedLine

/-- The dispatch on REC.type, the record "frame demux" (40_record_decoder.md R140, 30_encoding.md R93). -/
def dispatchRecord (r : Record) : Instr :=
  if r.rtype = Machine.typeData then .recData r
  else if r.rtype = Machine.typeEof then .recEof r
  else .recSkip r

/-- A line to its instruction. -/
def decodeLine (text : Line) : Except DecodeError Instr :=
  match decodeRecord text with
  | .ok r => .ok (dispatchRecord r)
  | .error e => .error e

/-! ## Frames and replies -/

/-- The instruction `i` where the bytes are a frame of its slot, else a rejection by name (30_encoding.md R111). -/
def frameIf (c : Bool) (i : Instr) : Except DecodeError Instr :=
  if c then .ok i else .error .notTheFrame

/-- The instruction `i` where the bytes are the one byte it expects (30_encoding.md R105, R106). -/
def replyIf (e : Byte) (i : Instr) (bytes : List Byte) : Except DecodeError Instr :=
  if bytes = [e] then .ok i else .error .wrongReply

/-- The decoder: total on any bytes, rejecting by name. -/
def decode : Slot → List Byte → Except DecodeError Instr
  | .line, bytes => decodeLine bytes
  | .initFrame, _ => .ok .txInit
  | .sofFrame, bytes => frameIf (bytes == [Machine.cmdSof]) .txSof
  | .addrFrame, bytes => frameIf (bytes.length == Machine.addrBytes) .txAddr
  | .dataFrame n, bytes => frameIf (bytes.length == n) .txData
  | .crcFrame, bytes => frameIf (bytes.length == Machine.crcBytes) .txCrc
  | .rebootFrame, bytes => frameIf (bytes == [Machine.cmdReboot]) .txReboot
  | .initReply, bytes => replyIf Machine.initAckByte .rxInitAck bytes
  | .sofReply, bytes => replyIf Machine.ackByte .rxAckSof bytes
  | .addrReply, bytes => replyIf Machine.ackByte .rxAckAddr bytes
  | .dataReply, bytes => replyIf Machine.ackByte .rxAckData bytes
  | .crcReply, bytes => replyIf Machine.crcAckByte .rxCrcAck bytes
  | .pageReply, bytes => replyIf Machine.ackByte .rxAckPage bytes

/-- The 32-bit value of an address or CRC frame, least significant byte first (20_memory.md R65); `none` where the
frame has not four bytes. -/
def le32Value : List Byte → Option (BitVec 32)
  | [b0, b1, b2, b3] => some (b3 ++ b2 ++ b1 ++ b0)
  | _ => none

/-! ## The encoder

The block has no encoder for records (30_encoding.md R113, 40_record_decoder.md R145); this one is the model's, from
the tables of 30_encoding.md, with the digits in upper case (assumption log 13). The frames are what UPF sends. -/

/-- The character of a hex digit below 16, upper case (00_scope.md R15). -/
def hexDigit (n : Nat) : Byte :=
  if n < 10 then BitVec.ofNat 8 (0x30 + n) else BitVec.ofNat 8 (0x41 + (n - 10))

/-- Two characters per byte, high nibble first (30_encoding.md R90). -/
def hexText (b : Byte) : Line := [hexDigit (b.toNat / 16), hexDigit (b.toNat % 16)]

/-- The hex text of a sequence of bytes. -/
def hexTexts : List Byte → Line
  | [] => []
  | b :: bs => hexText b ++ hexTexts bs

/-- `:LLAAAATT<payload hex>CC` (30_encoding.md R90). -/
def encodeRecord (r : Record) : Line :=
  Machine.startMarker :: (hexText r.len ++ hexText (Machine.addrHigh r.addr) ++ hexText (Machine.addrLow r.addr)
    ++ hexText r.rtype ++ hexTexts r.payload ++ hexText r.csum)

/-- The four bytes of a 32-bit value, least significant byte first (20_memory.md R65). -/
def le32 (v : BitVec 32) : List Byte :=
  [v.extractLsb' 0 8, v.extractLsb' 8 8, v.extractLsb' 16 8, v.extractLsb' 24 8]

/-- The words of an instruction: the record line, the frame sent (30_encoding.md R98 to R103), or the reply byte
expected (30_encoding.md R105). -/
def encode (o : FrameOperands) : Instr → List Byte
  | .recData r => encodeRecord r
  | .recEof r => encodeRecord r
  | .recSkip r => encodeRecord r
  | .txInit => o.initSeq
  | .txSof => [Machine.cmdSof]
  | .txAddr => le32 o.curAddr
  | .txData => o.page
  | .txCrc => le32 o.crc
  | .txReboot => [Machine.cmdReboot]
  | .rxInitAck => [Machine.initAckByte]
  | .rxAckSof => [Machine.ackByte]
  | .rxAckAddr => [Machine.ackByte]
  | .rxAckData => [Machine.ackByte]
  | .rxCrcAck => [Machine.crcAckByte]
  | .rxAckPage => [Machine.ackByte]

/-! ## The words of spec/opcode_table.json (assumption log 11) -/

/-- `n` bytes of a word, byte 0 its bits 7..0. -/
def bytesOfWord (w : Nat) : Nat → List Byte
  | 0 => []
  | n + 1 => BitVec.ofNat 8 w :: bytesOfWord (w / 256) n

/-- The record line a REC row's word stands for: the table's match and mask apply to the byte TT alone, every other
field is zero, and the checksum is the one the fields require. -/
def recordOfType (tt : Byte) : Record :=
  ⟨0#8, 0#16, tt, [], Machine.checksum ⟨0#8, 0#16, tt, [], 0#8⟩⟩

/-- The first slot of a list in which the bytes decode. -/
def decodeFirst (bytes : List Byte) : List Slot → Option Instr
  | [] => none
  | sl :: sls =>
    match decode sl bytes with
    | .ok i => some i
    | .error _ => decodeFirst bytes sls

/-- One byte as a word of the table. The table's rows overlap across the formats (0x01 is REC.EOF and RX.INIT_ACK,
0x55 is four RX rows); the machine tells them apart by ST, a bare word cannot. A record type is taken where REC has a
row of its own for it, then a command byte, then a reply byte, then REC.SKIP. -/
def decodeTableByte (b : Byte) : Option Instr :=
  if b = Machine.typeData ∨ b = Machine.typeEof then (decode .line (encodeRecord (recordOfType b))).toOption
  else
    match decodeFirst [b] [.sofFrame, .rebootFrame, .sofReply, .crcReply] with
    | some i => some i
    | none => (decode .line (encodeRecord (recordOfType b))).toOption

/-- The instruction the decoder reads from a word of `nbits` bits: nothing sent is TX.INIT, one byte a row with fixed
bits, four bytes an address frame (TX.CRC has the same shape), and a longer word the characters of a record line. -/
def decodeTableWord (nbits w : Nat) : Option Instr :=
  match bytesOfWord w (nbits / 8) with
  | [] => decodeFirst [] [.initFrame]
  | [b] => decodeTableByte b
  | b :: c :: bs => decodeFirst (b :: c :: bs) [.addrFrame, .line]

end Sys2Proof
end

