-- ==== Sys2Proof/Config.lean ====
section
/-! DEFINITION. What an implementation fixes and what the spec leaves open: the free answers of the device, the
choice of the page CRC, and the timing parameters, which no rule reads. -/

namespace Sys2Proof

/-- One answer of the environment to a read: a byte, or the expiry of the bounded wait (20_memory.md R70). -/
inductive Answer where
  | byte (b : Byte)
  | timeout
  deriving DecidableEq, Repr, Inhabited

/-- Which total function plays `CRC32` (44_crc32.md R250, decision D27: a configuration field). `isoHdlc`, the
default, is the function of R251; `other k` is the `k`-th uninterpreted function (assumption log 4). -/
inductive CrcVariant where
  | isoHdlc
  | other (k : Nat)
  deriving DecidableEq, Repr

/-- FREE VALUE (assumption log 3). The answer to read number `n` where the run's supplied answers `ans` do not
reach that far: 20_memory.md R71, "The sequence of answers is a free input of the run". -/
opaque Config.rxAnswer : Nat → Answer

/-- FREE VALUE (assumption log 4). The page checksum of a device whose CRC is not that of 44_crc32.md R251. -/
opaque Config.otherCrc : Nat → List Byte → BitVec 32

/-- `BAUD` (00_scope.md R10, 30_encoding.md R110). No rule reads it. -/
def Config.baud : Nat := 57600

/-- `DATA_BITS` (00_scope.md R10, 30_encoding.md R110). No rule reads it. -/
def Config.dataBits : Nat := 8

/-- `RX_TIMEOUT`, in units of `Config.timeUnitMicroseconds` (00_scope.md R10, 30_encoding.md R110). No rule reads
it: a timeout is one of the two kinds of `Answer`. -/
def Config.rxTimeout : Nat := 3

/-- The values the parity parameter ranges over. DESIGN CHOICE (assumption log 16): the spec leaves PARITY open, its
domain included (91_not_in_source.md N13); the model takes none, even and odd, without mark and space. Safe: nothing
reads the parameter. -/
inductive Config.Parity where
  | none
  | even
  | odd
  deriving DecidableEq, Repr, Inhabited

/-- OPEN PARAMETER `TIME_UNIT` (00_scope.md R10, decision D23). That it is a whole number of microseconds is a DESIGN
CHOICE (assumption log 16): the spec leaves the unit open (91_not_in_source.md N12). Safe: nothing reads it. -/
opaque Config.timeUnitMicroseconds : Nat

/-- OPEN PARAMETER `PARITY` (00_scope.md R10, decision D24, assumption log 16), over the domain above. -/
opaque Config.parity : Config.Parity

/-- OPEN PARAMETER `STOP_BITS` (00_scope.md R10, decision D24). That it is a whole number is a DESIGN CHOICE (assumption
log 16): the spec leaves the number open (91_not_in_source.md N13). Safe: nothing reads it. -/
opaque Config.stopBits : Nat

end Sys2Proof
end

