-- ==== Sys2Proof/Machine/Crc.lean ====
section
/-! DEFINITION. The page checksum function (44_crc32.md). The source says only "standard CRC-32"; the algorithm is
PRESUMED, from general knowledge (44_crc32.md R251, 93_implementation_defined.md G1; assumption log 4). -/

namespace Sys2Proof.Machine

/-- The reflected polynomial 0xEDB88320 (44_crc32.md R251, R252). -/
def crcPolynomial : BitVec 32 := 0xEDB88320#32

/-- One of the eight rounds of a byte (44_crc32.md R251). -/
def crcRound (c : BitVec 32) : BitVec 32 :=
  if c.getLsbD 0 then (c >>> 1) ^^^ crcPolynomial else c >>> 1

/-- `n` rounds. -/
def crcRounds : Nat → BitVec 32 → BitVec 32
  | 0, c => c
  | n + 1, c => crcRounds n (crcRound c)

/-- One byte of the loop: `c <- c xor zext_32(b)`, then eight rounds (44_crc32.md R251). -/
def crcByte (c : BitVec 32) (b : Byte) : BitVec 32 := crcRounds 8 (c ^^^ b.zeroExtend 32)

/-- The loop state after a sequence of bytes: all that the rest of the computation needs (44_crc32.md R253). -/
def crcLoop (c : BitVec 32) : List Byte → BitVec 32
  | [] => c
  | b :: bs => crcLoop (crcByte c b) bs

/-- `CRC32(D)` of 44_crc32.md R251. -/
def crc32 (d : List Byte) : BitVec 32 := crcLoop 0xFFFFFFFF#32 d ^^^ 0xFFFFFFFF#32

/-- `CRC32` as the configuration field selects it (44_crc32.md R250). -/
def pageCrc (v : CrcVariant) (d : List Byte) : BitVec 32 :=
  match v with
  | .isoHdlc => crc32 d
  | .other k => Config.otherCrc k d

end Sys2Proof.Machine
end

