-- ==== Sys2Proof/Machine/State.lean ====
section
/-! DEFINITION. The state of the block as plain data (10_state.md), the reasons a step can stop, and the state after
reset (10_state.md R46, 70_reset_and_hazards.md R330). -/

namespace Sys2Proof.Machine

/-- The state register (10_state.md R30), nineteen values, without a numeric encoding. -/
inductive St where
  | sIdle | sDecode | sPlan | sOpen
  | sInitTx | sInitAck | sPageTest
  | sSofTx | sSofAck | sAddrTx | sAddrAck | sDataTx | sDataAck | sCrcTx | sCrcAck | sPageAck
  | sRebootTx | sDone | sAborted
  deriving DecidableEq, Repr

/-- The four steps a NoAck can name (60_exceptions.md R296 to R299). -/
inductive AckStep where
  | sof | addr | data | checksum
  deriving DecidableEq, Repr

/-- The errors of a run with their info fields (60_exceptions.md R291 to R301). -/
inductive RunError where
  /-- R291 -/
  | malformedLine (lineIndex : Nat)
  /-- R292 -/
  | checksumMismatch (expected actual : Byte)
  /-- R293 -/
  | rangeViolation (address lineIndex : Nat)
  /-- R294 -/
  | configError
  /-- R295 -/
  | initFailed
  /-- R296 to R299 -/
  | noAck (step : AckStep)
  /-- R300 -/
  | flashFailed
  /-- Panic(CapacityViolation), outside the ten tagged outcomes of the source (R301; assumption log 9). -/
  | capacityPanic (address lineIndex : Nat)
  deriving DecidableEq, Repr

/-- RESULT (10_state.md R40). -/
inductive RunResult where
  | none
  | success
  | fail (e : RunError)
  deriving DecidableEq, Repr

/-- The configuration registers CFG.* (10_state.md R21 to R25) and the configuration field CRC32 (44_crc32.md R250). -/
structure Cfg where
  blSize : Nat
  flSize : Nat
  pageSize : Nat
  strict : Bool
  initSeq : Option (List Byte)
  crc : CrcVariant
  deriving DecidableEq, Repr

/-- The image space as a list of cells, addresses strictly rising, no cell equal to `unlistedByte`
(10_state.md R42, 20_memory.md R60). -/
abbrev Memory := List Host.Cell

/-- What an address that no cell lists reads as: "bytes at untouched addresses remain at their initial (zero) value"
(10_state.md R42). -/
def unlistedByte : Byte := 0#8

/-- The state of the block. `cfg` and `lines` are supplied by the outside layer and never written by a rule
(10_state.md R26, R27); `ans` holds the environment's answers (20_memory.md R70; assumption log 3). -/
@[ext]
structure State where
  cfg : Cfg
  lines : List Line
  ans : List Answer
  st : St
  lineIdx : Nat
  recLatch : Record
  goff : Nat
  hwm : Nat
  pageCount : Int
  lastBoundary : Nat
  curAddr : Nat
  pageIdx : Nat
  result : RunResult
  chOpen : Bool
  image : Memory
  rxCnt : Nat
  txLog : List Byte
  deriving DecidableEq, Repr

/-- Stops that no run of the block reaches: the spec states a precondition and gives no effect without it. -/
inductive Fault where
  /-- `Tx` or `RxRead` with CH_OPEN = 0, which they require to be 1 (20_memory.md R68, R70). Raised by the TX and RX
  meanings. Safe. -/
  | channelNotOpen
  /-- The plan with CFG.PAGE_SIZE = 0, which its precondition excludes (42_page_scheduler.md R180). Raised by the plan
  rule. Safe. -/
  | pageSizeZero
  deriving DecidableEq, Repr

/-- Refusals: the model has no move. -/
inductive Refusal where
  /-- An arm of `exec` that has no meaning yet. No arm answers with it. Safe. -/
  | notModelled (mnemonic : String)
  /-- A rule whose guard on ST does not hold (00_scope.md R16). Raised by every meaning and every sequencer rule run
  outside its state; `step` never runs one there. Safe. -/
  | guardNotMet
  /-- S_DONE and S_ABORTED have no enabled rule (10_state.md R30). Raised by `step`. Safe. -/
  | runEnded
  /-- The outside layer writes CFG.* or LINES while ST is not S_IDLE (10_state.md R27). Raised by `supply`. Safe. -/
  | configLocked
  deriving DecidableEq, Repr

/-- What a rule answers. -/
abbrev Out := Host.Outcome State Fault Refusal

/-- REC at reset. The spec: "unspecified (never read before written)" (10_state.md R33). DESIGN CHOICE, assumption
log 2. -/
def zeroRecord : Record := ⟨0#8, 0#16, 0#8, [], 0#8⟩

/-- CFG.* before the outside layer supplies them. The spec gives no value (10_state.md R46). DESIGN CHOICE,
assumption log 1. -/
def unsuppliedCfg : Cfg := ⟨0, 0, 0, false, Option.none, .isoHdlc⟩

/-- The machine right after reset (10_state.md R46, 70_reset_and_hazards.md R330). -/
def State.reset : State where
  cfg := unsuppliedCfg
  lines := []
  ans := []
  st := .sIdle
  lineIdx := 0
  recLatch := zeroRecord
  goff := 0
  hwm := 0
  pageCount := 0
  lastBoundary := 0
  curAddr := 0
  pageIdx := 0
  result := .none
  chOpen := false
  image := []
  rxCnt := 0
  txLog := []

end Sys2Proof.Machine
end

