-- ==== Sys2Proof/Machine/Ops.lean ====
section
/-! DEFINITION. The named operations: image reads and writes, `Tx`, `RxRead`, the guard on ST, and `abort`, the one
shared way an error is taken (60_exceptions.md R305). There is no return from an abort (60_exceptions.md R308). -/

namespace Sys2Proof.Machine

/-! ## Memory in canonical form -/

/-- The byte a memory holds at an address (10_state.md R42). -/
def memRead : Memory → Nat → Byte
  | [], _ => unlistedByte
  | (k, c) :: m, a => if a = k then c else memRead m a

/-- The memory with one byte replaced; a cell that would equal `unlistedByte` is not listed. -/
def memWrite : Memory → Nat → Byte → Memory
  | [], a, b => if b = unlistedByte then [] else [(a, b)]
  | (k, c) :: m, a, b =>
    if a < k then (if b = unlistedByte then (k, c) :: m else (a, b) :: (k, c) :: m)
    else if a = k then (if b = unlistedByte then m else (a, b) :: m)
    else (k, c) :: memWrite m a b

/-- Addresses at or above `lo`, strictly rising, no cell equal to `unlistedByte`. -/
def memWfFrom (lo : Nat) : Memory → Bool
  | [] => true
  | (k, c) :: m => decide (lo ≤ k) && c != unlistedByte && memWfFrom (k + 1) m

/-- The canonical form of a memory. -/
def Memory.wf (m : Memory) : Bool := memWfFrom 0 m

/-! ## The image (20_memory.md R62, R63) -/

/-- `ImgRead(a)`: `IMAGE[a]` below CFG.FL_SIZE, 0x00 at or beyond it (20_memory.md R63). -/
def imgRead (s : State) (a : Nat) : Byte :=
  if a < s.cfg.flSize then memRead s.image a else 0x00#8

/-- `ImgWrite(a, b)`; `none` where `a >= CFG.FL_SIZE`: the write is not performed (20_memory.md R62). -/
def imgWrite (s : State) (a : Nat) (b : Byte) : Option State :=
  if a < s.cfg.flSize then some { s with image := memWrite s.image a b } else Option.none

/-! ## The serial channel (20_memory.md R68, R70) -/

/-- `Tx(bytes)`: `TXLOG <- TXLOG ++ bytes` (20_memory.md R68). -/
def tx (bytes : List Byte) (s : State) : State := { s with txLog := s.txLog ++ bytes }

/-- The environment's answer number `n` (20_memory.md R70): the supplied one, or the free value beyond them
(assumption log 3). -/
def answerAt (s : State) (n : Nat) : Answer :=
  match s.ans[n]? with
  | some a => a
  | Option.none => Config.rxAnswer n

/-- The answer the next `RxRead()` returns: number RXCNT (20_memory.md R70). -/
def nextAnswer (s : State) : Answer := answerAt s s.rxCnt

/-- What `RxRead()` changes: `RXCNT <- RXCNT + 1` (20_memory.md R70). -/
def countRead (s : State) : State := { s with rxCnt := s.rxCnt + 1 }

/-- `Tx` and `RxRead` require CH_OPEN = 1 (20_memory.md R68, R70; assumption log 7). -/
def whenOpen (s : State) (k : Out) : Out := if s.chOpen then k else .fault .channelNotOpen

/-! ## Guard and abort -/

/-- A rule fires only where its guard on ST holds (00_scope.md R16; assumption log 6). -/
def whenAt (g : St) (s : State) (k : Out) : Out := if s.st = g then k else .refused .guardNotMet

/-- `abort T(info)` (60_exceptions.md R305): "RESULT <- Fail(T, info), CH_OPEN <- 0, ST <- S_ABORTED"; every other
register, IMAGE and TXLOG keep their values. -/
def abort (e : RunError) (s : State) : State :=
  { s with result := .fail e, chOpen := false, st := .sAborted }

end Sys2Proof.Machine
end

