-- ==== Sys2Proof/Machine/Operands.lean ====
section
/-! DEFINITION. The operands of the instructions: target addresses of a Data record, and the values the TX frames
carry, read from the registers and the image when the frame is sent (30_encoding.md R98 to R102). -/

namespace Sys2Proof.Machine

/-- `t = GOFF + REC.addr + i` for `i = 0`, an exact sum with no wrap at 16 bits (41_image_builder.md R162). -/
def targetBase (s : State) (r : Record) : Nat := s.goff + r.addr.toNat

/-- `ImgRead(a), ImgRead(a + 1), …`: `n` bytes in ascending order (43_upload_protocol.md R214). -/
def imgBytes (s : State) (a : Nat) : Nat → List Byte
  | 0 => []
  | n + 1 => imgRead s a :: imgBytes s (a + 1) n

/-- The bytes `D` of the page at CUR_ADDR (43_upload_protocol.md R214, 30_encoding.md R101). -/
def pageBytes (s : State) : List Byte := imgBytes s s.curAddr s.cfg.pageSize

/-- The low 32 bits of CUR_ADDR, which the ADDR frame carries (30_encoding.md R100). -/
def addrOperand (s : State) : BitVec 32 := BitVec.ofNat 32 s.curAddr

/-- `crc = CRC32(D)` over the bytes of the page (30_encoding.md R102, 43_upload_protocol.md R217). -/
def crcOperand (s : State) : BitVec 32 := pageCrc s.cfg.crc (pageBytes s)

/-- The operands of every TX row in a state; CFG.INIT = None sends no byte (43_upload_protocol.md R205). -/
def frameOperands (s : State) : FrameOperands where
  initSeq := s.cfg.initSeq.getD []
  curAddr := addrOperand s
  page := pageBytes s
  crc := crcOperand s

/-- The frame an instruction sends in a state. -/
def frameOf (s : State) (i : Instr) : List Byte := encode (frameOperands s) i

end Sys2Proof.Machine
end

