-- ==== Sys2Proof/Machine/Frames.lean ====
section
/-! DEFINITION. The meanings of the TX rows (43_upload_protocol.md R205, R210, R212, R214, R217, R224). -/

namespace Sys2Proof.Machine

/-- A frame handed to `Tx` whole (20_memory.md R68), then the state that awaits its reply. -/
def sendFrame (bytes : List Byte) (after : St) (s : State) : Out :=
  whenOpen s (.next { tx bytes s with st := after })

/-- TX.INIT (43_upload_protocol.md R205): nothing is sent where CFG.INIT = None. -/
def execTxInit (s : State) : Out :=
  whenAt .sInitTx s
    (match s.cfg.initSeq with
     | none => .next { s with st := .sPageTest }
     | some _ => sendFrame (frameOf s .txInit) .sInitAck s)

/-- TX.SOF (43_upload_protocol.md R210). -/
def execTxSof (s : State) : Out :=
  whenAt .sSofTx s (sendFrame (frameOf s .txSof) .sSofAck s)

/-- TX.ADDR (43_upload_protocol.md R212). -/
def execTxAddr (s : State) : Out :=
  whenAt .sAddrTx s (sendFrame (frameOf s .txAddr) .sAddrAck s)

/-- TX.DATA (43_upload_protocol.md R214). -/
def execTxData (s : State) : Out :=
  whenAt .sDataTx s (sendFrame (frameOf s .txData) .sDataAck s)

/-- TX.CRC (43_upload_protocol.md R217). -/
def execTxCrc (s : State) : Out :=
  whenAt .sCrcTx s (sendFrame (frameOf s .txCrc) .sCrcAck s)

/-- TX.REBOOT (43_upload_protocol.md R224): fire-and-forget; the channel is released and the run is Done. -/
def execTxReboot (s : State) : Out :=
  whenAt .sRebootTx s
    (whenOpen s
      (.next { tx (frameOf s .txReboot) s with chOpen := false, result := .success, st := .sDone }))

end Sys2Proof.Machine
end

