-- ==== Sys2Proof/Machine/Flags.lean ====
section
/-! DEFINITION. The block has no flags register: "Decode writes no flag" (40_record_decoder.md R139). What takes the
place of flag computations are the conditions its rules test, and the outcome kinds and codes RESULT stands for. -/

namespace Sys2Proof.Machine

/-! ## Conditions -/

/-- The configuration check fails: CFG.PAGE_SIZE = 0 or CFG.FL_SIZE <= CFG.BL_SIZE (45_run_sequencer.md R267). -/
def configBad (c : Cfg) : Bool := decide (c.pageSize = 0) || decide (c.flSize ≤ c.blSize)

/-- The address lies in the bootloader region or outside the flash (41_image_builder.md R163). -/
def outOfRange (c : Cfg) (t : Nat) : Bool := decide (t < c.blSize) || decide (c.flSize ≤ t)

/-- The test of one Data byte's target address: strict test, then capacity test (41_image_builder.md R161, R163,
R165). -/
def targetError (s : State) (t : Nat) : Option RunError :=
  if s.cfg.strict && outOfRange s.cfg t then some (.rangeViolation t s.lineIdx)
  else if s.cfg.flSize ≤ t then some (.capacityPanic t s.lineIdx)
  else Option.none

/-- A planned page is still to be sent: CUR_ADDR < LAST_BOUNDARY (43_upload_protocol.md R209). -/
def pageDue (s : State) : Bool := decide (s.curAddr < s.lastBoundary)

/-! ## Outcomes and their codes (60_exceptions.md R302) -/

/-- The kinds of outcome of a run that have a code of their own (60_exceptions.md R302). -/
inductive OutcomeKind where
  | success | malformedLine | checksumMismatch | rangeViolation | configError | initFailed
  | noAckSof | noAckAddr | noAckData | noAckChecksum | flashFailed | panic
  deriving DecidableEq, Repr

/-- The kind of an error. -/
def errorKind : RunError → OutcomeKind
  | .malformedLine _ => .malformedLine
  | .checksumMismatch _ _ => .checksumMismatch
  | .rangeViolation _ _ => .rangeViolation
  | .configError => .configError
  | .initFailed => .initFailed
  | .noAck .sof => .noAckSof
  | .noAck .addr => .noAckAddr
  | .noAck .data => .noAckData
  | .noAck .checksum => .noAckChecksum
  | .flashFailed => .flashFailed
  | .capacityPanic _ _ => .panic

/-- The kind of the outcome of a run, once there is one. -/
def outcomeKind : RunResult → Option OutcomeKind
  | .none => Option.none
  | .success => some .success
  | .fail e => some (errorKind e)

/-- `exit_code`, the open parameter: a mapping "one-to-one and stable" (60_exceptions.md R302; assumption log 15). -/
def ExitCodeLegal (code : OutcomeKind → Nat) : Prop := ∀ a b, code a = code b → a = b

/-- The default the spec proposes for `exit_code` (60_exceptions.md R302). No rule reads a code. -/
def defaultExitCode : OutcomeKind → Nat
  | .success => 0
  | .malformedLine => 1
  | .checksumMismatch => 2
  | .rangeViolation => 3
  | .configError => 4
  | .initFailed => 5
  | .noAckSof => 6
  | .noAckAddr => 7
  | .noAckData => 8
  | .noAckChecksum => 9
  | .flashFailed => 10
  | .panic => 255

end Sys2Proof.Machine
end

