-- ==== Sys2Proof/Machine/Records.lean ====
section
/-! DEFINITION. MIB, the memory image builder (41_image_builder.md), and the meanings of the REC rows
(40_record_decoder.md R141 to R143, 45_run_sequencer.md R268 to R271). -/

namespace Sys2Proof.Machine

/-- `REC <- r` (40_record_decoder.md R138). -/
def latchRecord (r : Record) (s : State) : State := { s with recLatch := r }

/-- `LINE_IDX <- LINE_IDX + 1` (45_run_sequencer.md R269, R270). -/
def nextLine (s : State) : State := { s with lineIdx := s.lineIdx + 1 }

/-- One payload byte: strict test, capacity test, write, watermark (41_image_builder.md R161). -/
def applyByte (t : Nat) (b : Byte) (s : State) : Except RunError State :=
  match targetError s t with
  | some e => .error e
  | none =>
    match imgWrite s t b with
    | none => .error (.capacityPanic t s.lineIdx)
    | some s' => .ok { s' with hwm := max s'.hwm t }

/-- The payload bytes in ascending position from target address `t` (41_image_builder.md R161): the state after the
bytes that were written, and the error of the first byte that was not. -/
def applyBytes (t : Nat) : List Byte → State → State × Option RunError
  | [], s => (s, none)
  | b :: bs, s =>
    match applyByte t b s with
    | .error e => (s, some e)
    | .ok s' => applyBytes (t + 1) bs s'

/-- `apply(image, record, policy, strict)` (41_image_builder.md R160, R161). -/
def applyRecord (r : Record) (s : State) : State × Option RunError :=
  applyBytes (targetBase s r) r.payload s

/-- REC.DATA (40_record_decoder.md R141, 45_run_sequencer.md R269). -/
def execRecData (r : Record) (s : State) : Out :=
  whenAt .sDecode s
    (match applyRecord r (latchRecord r s) with
     | (s', none) => .next (nextLine s')
     | (s', some e) => .next (abort e s'))

/-- REC.EOF (40_record_decoder.md R142, 45_run_sequencer.md R271): LINE_IDX keeps the index of the EOF line. -/
def execRecEof (r : Record) (s : State) : Out :=
  whenAt .sDecode s (.next { latchRecord r s with st := .sPlan })

/-- REC.SKIP (40_record_decoder.md R143, 45_run_sequencer.md R270). -/
def execRecSkip (r : Record) (s : State) : Out :=
  whenAt .sDecode s (.next (nextLine (latchRecord r s)))

end Sys2Proof.Machine
end

