-- ==== Sys2Proof/Machine/Replies.lean ====
section
/-! DEFINITION. The reply classification `Expect` (43_upload_protocol.md R203) and the meanings of the RX rows
(43_upload_protocol.md R206, R211, R213, R215, R218, R220). -/

namespace Sys2Proof.Machine

/-- `Expect(e, T)`: exactly one read; any answer but `Byte(e)`, a timeout included, aborts with `T`
(43_upload_protocol.md R203). `k` is what the rule does on success. -/
def expect (e : Byte) (err : RunError) (k : State → State) (s : State) : Out :=
  whenOpen s
    (if nextAnswer s = .byte e then .next (k (countRead s)) else .next (abort err (countRead s)))

/-- `ST <- st`. -/
def goTo (st : St) (s : State) : State := { s with st := st }

/-- The page advance (43_upload_protocol.md R222). -/
def advancePage (s : State) : State :=
  { s with curAddr := s.curAddr + s.cfg.pageSize, pageIdx := s.pageIdx + 1 }

/-- RX.INIT_ACK (43_upload_protocol.md R206). -/
def execRxInitAck (s : State) : Out :=
  whenAt .sInitAck s (expect initAckByte .initFailed (goTo .sPageTest) s)

/-- RX.ACK at the SOF step (43_upload_protocol.md R211). -/
def execRxAckSof (s : State) : Out :=
  whenAt .sSofAck s (expect ackByte (.noAck .sof) (goTo .sAddrTx) s)

/-- RX.ACK at the ADDR step (43_upload_protocol.md R213). -/
def execRxAckAddr (s : State) : Out :=
  whenAt .sAddrAck s (expect ackByte (.noAck .addr) (goTo .sDataTx) s)

/-- RX.ACK at the DATA step (43_upload_protocol.md R215). -/
def execRxAckData (s : State) : Out :=
  whenAt .sDataAck s (expect ackByte (.noAck .data) (goTo .sCrcTx) s)

/-- RX.CRC_ACK (43_upload_protocol.md R218). -/
def execRxCrcAck (s : State) : Out :=
  whenAt .sCrcAck s (expect crcAckByte (.noAck .checksum) (goTo .sPageAck) s)

/-- RX.ACK at page complete (43_upload_protocol.md R220, R222): nothing is sent before it; on success the page
advance happens in the same step. -/
def execRxAckPage (s : State) : Out :=
  whenAt .sPageAck s (expect ackByte .flashFailed (fun t => goTo .sPageTest (advancePage t)) s)

end Sys2Proof.Machine
end

