-- ==== Sys2Proof/Machine/Dispatch.lean ====
section
/-! DEFINITION. One arm per row of spec/opcode_table.json. -/

namespace Sys2Proof.Machine

def exec (i : Instr) (s : State) : Host.Outcome State Fault Refusal :=
  match i with
  | .recData r => Sys2Proof.Machine.execRecData r s
  | .recEof r => Sys2Proof.Machine.execRecEof r s
  | .recSkip r => Sys2Proof.Machine.execRecSkip r s
  | .txInit => Sys2Proof.Machine.execTxInit s
  | .txSof => Sys2Proof.Machine.execTxSof s
  | .txAddr => Sys2Proof.Machine.execTxAddr s
  | .txData => Sys2Proof.Machine.execTxData s
  | .txCrc => Sys2Proof.Machine.execTxCrc s
  | .txReboot => Sys2Proof.Machine.execTxReboot s
  | .rxInitAck => Sys2Proof.Machine.execRxInitAck s
  | .rxAckSof => Sys2Proof.Machine.execRxAckSof s
  | .rxAckAddr => Sys2Proof.Machine.execRxAckAddr s
  | .rxAckData => Sys2Proof.Machine.execRxAckData s
  | .rxCrcAck => Sys2Proof.Machine.execRxCrcAck s
  | .rxAckPage => Sys2Proof.Machine.execRxAckPage s

end Sys2Proof.Machine
end

