-- ==== Sys2Proof/Machine/Sequencer.lean ====
section
/-! DEFINITION. The rules of the run sequencer and the page scheduler that fire without an item to decode
(45_run_sequencer.md R267, R272, R275; 42_page_scheduler.md R188; 43_upload_protocol.md R209), and the abort of a line
that does not decode. -/

namespace Sys2Proof.Machine

/-- The configuration check (45_run_sequencer.md R267). -/
def configCheck (s : State) : Out :=
  whenAt .sIdle s
    (if configBad s.cfg then .next (abort .configError s) else .next { s with st := .sDecode })

/-- The end of the input without an EOF record (45_run_sequencer.md R272): the guard is `LINE_IDX >= len(LINES)`. -/
def endOfInput (s : State) : Out :=
  whenAt .sDecode s
    (if s.lines.length ≤ s.lineIdx then .next { s with st := .sPlan } else .refused .guardNotMet)

/-- `n0 = ceil(HWM / CFG.PAGE_SIZE)` (42_page_scheduler.md R181), `ceil` as 00_scope.md R12 defines it. -/
def pageCeil (hwm pageSize : Nat) : Nat := (hwm + pageSize - 1) / pageSize

/-- The first planned page: CFG.BL_SIZE rounded down to a page (42_page_scheduler.md R184). -/
def firstPage (c : Cfg) : Nat := c.blSize / c.pageSize * c.pageSize

/-- The plan step (42_page_scheduler.md R188); its precondition is CFG.PAGE_SIZE > 0 (R180; assumption log 8). -/
def planPages (s : State) : Out :=
  whenAt .sPlan s
    (if s.cfg.pageSize = 0 then .fault .pageSizeZero
     else .next { s with
       lastBoundary := pageCeil s.hwm s.cfg.pageSize * s.cfg.pageSize
       pageCount := (pageCeil s.hwm s.cfg.pageSize : Int) - (s.cfg.blSize / s.cfg.pageSize : Nat)
       curAddr := firstPage s.cfg
       st := .sOpen })

/-- The channel acquire, which always succeeds (45_run_sequencer.md R275). -/
def acquireChannel (s : State) : Out :=
  whenAt .sOpen s (.next { s with chOpen := true, st := .sInitTx })

/-- The page loop test (43_upload_protocol.md R209). -/
def pageTest (s : State) : Out :=
  whenAt .sPageTest s (.next { s with st := if pageDue s then .sSofTx else .sRebootTx })

/-- The error a line that does not decode raises, with LINE_IDX as its info where it has one (40_record_decoder.md
R131, R133, R137). The record decoder answers no other rejection; the last arm is never reached from a line. -/
def lineError (lineIdx : Nat) : DecodeError → RunError
  | .malformedLine => .malformedLine lineIdx
  | .checksumMismatch e a => .checksumMismatch e a
  | .notTheFrame => .malformedLine lineIdx
  | .wrongReply => .malformedLine lineIdx

/-- A line that does not decode aborts the run; REC is not written (40_record_decoder.md R138) and LINE_IDX stays at
the offending line (45_run_sequencer.md R268). -/
def rejectLine (e : DecodeError) (s : State) : Out :=
  whenAt .sDecode s (.next (abort (lineError s.lineIdx e) s))

/-- The sequencer rules by name. -/
inductive ControlRule where
  | configCheck | endOfInput | plan | acquire | pageTest
  deriving DecidableEq, Repr

/-- Fire a sequencer rule. -/
def runControl : ControlRule → State → Out
  | .configCheck, s => configCheck s
  | .endOfInput, s => endOfInput s
  | .plan, s => planPages s
  | .acquire, s => acquireChannel s
  | .pageTest, s => pageTest s

end Sys2Proof.Machine
end

