-- ==== Sys2Proof/Machine/Fetch.lean ====
section
/-! DEFINITION. What fires next (10_state.md R30): ST says it, and in S_DECODE the line at LINE_IDX
(45_run_sequencer.md R268). Also how the words of a program are placed where this reads them. -/

namespace Sys2Proof.Machine

/-- What the block meets next. -/
inductive Fetched where
  /-- An item that decodes, or a state that sends or expects one: a row of the opcode table. -/
  | instr (i : Instr)
  /-- A line that does not decode (40_record_decoder.md R139). -/
  | badLine (e : DecodeError)
  /-- A rule of the sequencer, with no item. -/
  | control (c : ControlRule)
  /-- S_DONE or S_ABORTED: no rule (10_state.md R30). -/
  | ended
  deriving DecidableEq, Repr

/-- In S_DECODE: the line at LINE_IDX, read once and decoded, or the end of the input (45_run_sequencer.md R268). -/
def fetchLine (s : State) : Fetched :=
  match s.lines[s.lineIdx]? with
  | none => .control .endOfInput
  | some l =>
    match decode .line l with
    | .ok i => .instr i
    | .error e => .badLine e

/-- The rule the state enables (10_state.md R30, 43_upload_protocol.md R226). A reply is read inside the rule that
expects it (43_upload_protocol.md R203; assumption log 14). -/
def fetch (s : State) : Fetched :=
  match s.st with
  | .sIdle => .control .configCheck
  | .sDecode => fetchLine s
  | .sPlan => .control .plan
  | .sOpen => .control .acquire
  | .sInitTx => .instr .txInit
  | .sInitAck => .instr .rxInitAck
  | .sPageTest => .control .pageTest
  | .sSofTx => .instr .txSof
  | .sSofAck => .instr .rxAckSof
  | .sAddrTx => .instr .txAddr
  | .sAddrAck => .instr .rxAckAddr
  | .sDataTx => .instr .txData
  | .sDataAck => .instr .rxAckData
  | .sCrcTx => .instr .txCrc
  | .sCrcAck => .instr .rxCrcAck
  | .sPageAck => .instr .rxAckPage
  | .sRebootTx => .instr .txReboot
  | .sDone => .ended
  | .sAborted => .ended

/-- The state in which an instruction's rule is enabled: the guard its rule names. -/
def guardOf : Instr → St
  | .recData _ => .sDecode
  | .recEof _ => .sDecode
  | .recSkip _ => .sDecode
  | .txInit => .sInitTx
  | .txSof => .sSofTx
  | .txAddr => .sAddrTx
  | .txData => .sDataTx
  | .txCrc => .sCrcTx
  | .txReboot => .sRebootTx
  | .rxInitAck => .sInitAck
  | .rxAckSof => .sSofAck
  | .rxAckAddr => .sAddrAck
  | .rxAckData => .sDataAck
  | .rxCrcAck => .sCrcAck
  | .rxAckPage => .sPageAck

/-- A list with one element replaced, filled up with `d` where it is too short. -/
def setPadded {α : Type} (d x : α) : Nat → List α → List α
  | 0, [] => [x]
  | 0, _ :: l => x :: l
  | n + 1, [] => d :: setPadded d x n []
  | n + 1, y :: l => y :: setPadded d x n l

/-- Place a line where S_DECODE reads the next one. -/
def placeLine (l : Line) (s : State) : State :=
  { s with st := .sDecode, lines := setPadded [] l s.lineIdx s.lines }

/-- Stand where a frame is sent, the channel open. -/
def placeFrame (i : Instr) (s : State) : State := { s with st := guardOf i, chOpen := true }

/-- Stand where a reply is expected, the channel open, the reply the next answer. -/
def placeReply (i : Instr) (b : Byte) (s : State) : State :=
  { s with st := guardOf i, chOpen := true, ans := setPadded .timeout (.byte b) s.rxCnt s.ans }

/-- Place an instruction where `fetch` reads the next one, its words those of `encode` (assumption log 12). -/
def placeInstr (i : Instr) (s : State) : State :=
  match i with
  | .recData r => placeLine (encodeRecord r) s
  | .recEof r => placeLine (encodeRecord r) s
  | .recSkip r => placeLine (encodeRecord r) s
  | .txInit => { placeFrame i s with cfg := { s.cfg with initSeq := some [] } }
  | .txSof => placeFrame i s
  | .txAddr => placeFrame i s
  | .txData => placeFrame i s
  | .txCrc => placeFrame i s
  | .txReboot => placeFrame i s
  | .rxInitAck => placeReply i initAckByte s
  | .rxAckSof => placeReply i ackByte s
  | .rxAckAddr => placeReply i ackByte s
  | .rxAckData => placeReply i ackByte s
  | .rxCrcAck => placeReply i crcAckByte s
  | .rxAckPage => placeReply i ackByte s

/-- Place the words of spec/opcode_table.json; bytes that decode in no slot are placed as a line, which the block
rejects. -/
def placeWord (nbits w : Nat) (s : State) : State :=
  match decodeTableWord nbits w with
  | some i => placeInstr i s
  | none => placeLine (bytesOfWord w (nbits / 8)) s

end Sys2Proof.Machine
end

