-- ==== Sys2Proof/Machine/Step.lean ====
section
/-! DEFINITION. One step: one firing of the one rule whose guard holds (00_scope.md R16). -/

namespace Sys2Proof.Machine

/-- One step. S_DONE and S_ABORTED have no enabled rule (10_state.md R30; assumption log 10). -/
def step (s : State) : Host.Outcome State Fault Refusal :=
  match fetch s with
  | .instr i => exec i s
  | .badLine e => rejectLine e s
  | .control c => runControl c s
  | .ended => .refused .runEnded

/-- `s` with the instruction of a word of spec/opcode_table.json placed where `step` fetches the next one
(assumption log 12). -/
def State.withFetchWord (s : State) (nbits w : Nat) : State := placeWord nbits w s

end Sys2Proof.Machine
end

