-- ==== Sys2Proof/Machine/Environment.lean ====
section
/-! DEFINITION. The host interface: what the outside layer does before a run (10_state.md R27, 45_run_sequencer.md
R266, 70_reset_and_hazards.md R335). -/

namespace Sys2Proof.Machine

/-- The outside layer supplies CFG.*, LINES and, for the model, the environment's answers. It may do so only while
ST = S_IDLE (10_state.md R27; assumption log 19). -/
def supply (cfg : Cfg) (lines : List Line) (ans : List Answer) (s : State) : Out :=
  if s.st = .sIdle then .next { s with cfg := cfg, lines := lines, ans := ans } else .refused .configLocked

/-- The state a run starts from: reset, then CFG.*, LINES and the answers supplied (45_run_sequencer.md R266,
70_reset_and_hazards.md R332, R335; assumption log 12). -/
def State.start (cfg : Cfg) (lines : List Line) (ans : List Answer) : State :=
  { State.reset with cfg := cfg, lines := lines, ans := ans }

end Sys2Proof.Machine
end

