-- ==== Sys2Proof/Safety.lean ====
section
/-! DEFINITION. The terms claims are stated in: which states a run can be in (the invariants), what a run sends, the
planned pages, what decoding writes, and the whole run as one function (45_run_sequencer.md R278). -/

namespace Sys2Proof.Machine

/-! ## Phases -/

/-- S_DONE and S_ABORTED (10_state.md R30). -/
def terminal : St → Bool
  | .sDone => true
  | .sAborted => true
  | _ => false

/-- The states in which the block owns the channel: from the acquire (45_run_sequencer.md R275) to the reboot
(43_upload_protocol.md R224). -/
def owningChannel : St → Bool
  | .sIdle => false
  | .sDecode => false
  | .sPlan => false
  | .sOpen => false
  | .sDone => false
  | .sAborted => false
  | _ => true

/-- The phases of a run in their order (45_run_sequencer.md R265). -/
def phaseRank : St → Nat
  | .sIdle => 0
  | .sDecode => 1
  | .sPlan => 2
  | .sOpen => 3
  | .sDone => 5
  | .sAborted => 5
  | _ => 4

/-- The states whose rule reads one reply (43_upload_protocol.md R203). -/
def readsReply : St → Bool
  | .sInitAck => true
  | .sSofAck => true
  | .sAddrAck => true
  | .sDataAck => true
  | .sCrcAck => true
  | .sPageAck => true
  | _ => false

/-- The errors UPF raises (43_upload_protocol.md R200). -/
def uploadError : RunError → Bool
  | .initFailed => true
  | .noAck _ => true
  | .flashFailed => true
  | _ => false

/-- The state each error is raised in (60_exceptions.md R302). -/
def raisedIn : RunError → St
  | .malformedLine _ => .sDecode
  | .checksumMismatch _ _ => .sDecode
  | .rangeViolation _ _ => .sDecode
  | .configError => .sIdle
  | .initFailed => .sInitAck
  | .noAck .sof => .sSofAck
  | .noAck .addr => .sAddrAck
  | .noAck .data => .sDataAck
  | .noAck .checksum => .sCrcAck
  | .flashFailed => .sPageAck
  | .capacityPanic _ _ => .sDecode

/-! ## The invariant of the state -/

/-- RESULT in each state: `None` until the end, `Success` in S_DONE, `Fail` in S_ABORTED (10_state.md R40,
45_run_sequencer.md R277). -/
def resultFits : St → RunResult → Bool
  | .sDone, r => r == .success
  | .sAborted, .fail _ => true
  | .sAborted, _ => false
  | _, r => r == .none

/-- What every step keeps. -/
structure Inv (s : State) : Prop where
  /-- The image is in canonical form. -/
  imageWf : s.image.wf = true
  /-- The image has CFG.FL_SIZE bytes (10_state.md R42), and no byte above the watermark was written (R36). -/
  imageBound : ∀ c ∈ s.image, c.1 < s.cfg.flSize ∧ c.1 ≤ s.hwm
  /-- HWM is at most CFG.FL_SIZE - 1 once a byte is written (10_state.md R36). -/
  hwmBelowFlash : s.hwm = 0 ∨ s.hwm < s.cfg.flSize
  /-- The greatest value HWM reaches (10_state.md R36). -/
  hwmReach : s.hwm ≤ 0x100FD
  /-- GOFF is the constant 0 (10_state.md R35). -/
  goffZero : s.goff = 0
  /-- The latched record is a well-formed one (40_record_decoder.md R138). -/
  recordOk : s.recLatch.wellFormed = true
  /-- CH_OPEN = 1 exactly while the block owns the channel (10_state.md R41). -/
  channel : s.chOpen = owningChannel s.st
  /-- RESULT fits ST (10_state.md R40). -/
  resultOk : resultFits s.st s.result = true
  /-- A run that got past S_IDLE without ConfigError has a legal configuration (00_scope.md R8). -/
  configOk : s.st = .sIdle ∨ s.result = .fail .configError ∨ configBad s.cfg = false

/-! ## What a run sends -/

/-- The four frames of the page at address `p`: SOF, ADDR, DATA, CRC (30_encoding.md R99 to R102). -/
def pageFrames (s : State) (p : Nat) : List (List Byte) :=
  [[cmdSof], le32 (BitVec.ofNat 32 p), imgBytes s p s.cfg.pageSize,
    le32 (pageCrc s.cfg.crc (imgBytes s p s.cfg.pageSize))]

/-- The bytes of the first `j` frames of a page. -/
def pagePrefix (s : State) (p j : Nat) : List Byte := ((pageFrames s p).take j).flatten

/-- `n0 - floor(CFG.BL_SIZE / CFG.PAGE_SIZE)`, no less than 0: the number of planned pages
(42_page_scheduler.md R185). -/
def plannedCount (c : Cfg) (hwm : Nat) : Nat := pageCeil hwm c.pageSize - c.blSize / c.pageSize

/-- The page `k` of the plan (42_page_scheduler.md R184). -/
def plannedPage (c : Cfg) (k : Nat) : Nat := firstPage c + k * c.pageSize

/-- The planned pages in ascending order (42_page_scheduler.md R184). -/
def plannedPages (c : Cfg) (hwm : Nat) : List Nat :=
  (List.range (plannedCount c hwm)).map (plannedPage c)

/-- The bytes of the first `n` planned pages. -/
def sentPages (s : State) (n : Nat) : List Byte :=
  (List.range n).flatMap (fun k => pagePrefix s (plannedPage s.cfg k) 4)

/-- The upload has begun: the INIT step has fired (43_upload_protocol.md R205). -/
def uploadBegun (s : State) : Bool :=
  match s.st, s.result with
  | .sIdle, _ => false
  | .sDecode, _ => false
  | .sPlan, _ => false
  | .sOpen, _ => false
  | .sInitTx, _ => false
  | .sAborted, .fail e => uploadError e
  | .sAborted, _ => false
  | _, _ => true

/-- How many frames of the page at CUR_ADDR have been sent (43_upload_protocol.md R226). -/
def framesSent (s : State) : Nat :=
  match s.st, s.result with
  | .sSofAck, _ => 1
  | .sAddrTx, _ => 1
  | .sAddrAck, _ => 2
  | .sDataTx, _ => 2
  | .sDataAck, _ => 3
  | .sCrcTx, _ => 3
  | .sCrcAck, _ => 4
  | .sPageAck, _ => 4
  | .sAborted, .fail (.noAck .sof) => 1
  | .sAborted, .fail (.noAck .addr) => 2
  | .sAborted, .fail (.noAck .data) => 3
  | .sAborted, .fail (.noAck .checksum) => 4
  | .sAborted, .fail .flashFailed => 4
  | _, _ => 0

/-- How many replies to the page at CUR_ADDR have been read (43_upload_protocol.md R226). -/
def repliesRead (s : State) : Nat :=
  match s.st, s.result with
  | .sAddrTx, _ => 1
  | .sAddrAck, _ => 1
  | .sDataTx, _ => 2
  | .sDataAck, _ => 2
  | .sCrcTx, _ => 3
  | .sCrcAck, _ => 3
  | .sPageAck, _ => 4
  | .sAborted, .fail (.noAck .sof) => 1
  | .sAborted, .fail (.noAck .addr) => 2
  | .sAborted, .fail (.noAck .data) => 3
  | .sAborted, .fail (.noAck .checksum) => 4
  | .sAborted, .fail .flashFailed => 5
  | _, _ => 0

/-- How many INIT replies have been read (43_upload_protocol.md R206, R207). -/
def initReads (s : State) : Nat :=
  if s.st = .sInitAck then 0 else s.cfg.initSeq.isSome.toNat

/-- TXLOG as 43_upload_protocol.md R227 gives it at every moment of a run. -/
def expectedTxLog (s : State) : List Byte :=
  if uploadBegun s then
    s.cfg.initSeq.getD [] ++ sentPages s s.pageIdx ++ pagePrefix s s.curAddr (framesSent s)
      ++ (if s.st = .sDone then [cmdReboot] else [])
  else []

/-- RXCNT as 43_upload_protocol.md R227 gives it at every moment of a run. -/
def expectedReads (s : State) : Nat :=
  if uploadBegun s then initReads s + 5 * s.pageIdx + repliesRead s else 0

/-- The plan has been made: its step has fired (42_page_scheduler.md R188). -/
def planMade (s : State) : Bool := uploadBegun s || s.st == .sOpen || s.st == .sInitTx

/-- A page is in flight: its SOF step has been reached and its last reply has not been read, or failed. -/
def pageInFlight (s : State) : Bool :=
  match s.st, s.result with
  | .sSofTx, _ => true
  | .sSofAck, _ => true
  | .sAddrTx, _ => true
  | .sAddrAck, _ => true
  | .sDataTx, _ => true
  | .sDataAck, _ => true
  | .sCrcTx, _ => true
  | .sCrcAck, _ => true
  | .sPageAck, _ => true
  | .sAborted, .fail (.noAck _) => true
  | .sAborted, .fail .flashFailed => true
  | _, _ => false

/-- No page has been begun yet. -/
def beforePages (s : State) : Bool :=
  match s.st, s.result with
  | .sOpen, _ => true
  | .sInitTx, _ => true
  | .sInitAck, _ => true
  | .sAborted, .fail .initFailed => true
  | _, _ => false

/-- The pages are all sent. -/
def afterPages (s : State) : Bool := s.st == .sRebootTx || s.st == .sDone

/-- The plan registers and the progress of the page loop (42_page_scheduler.md R188, 43_upload_protocol.md R209,
R222). -/
structure PlanOk (s : State) : Prop where
  boundary : s.lastBoundary = pageCeil s.hwm s.cfg.pageSize * s.cfg.pageSize
  count : s.pageCount = (pageCeil s.hwm s.cfg.pageSize : Int) - (s.cfg.blSize / s.cfg.pageSize : Nat)
  current : s.curAddr = plannedPage s.cfg s.pageIdx
  sent : s.pageIdx = 0 ∨ s.curAddr ≤ s.lastBoundary
  inFlight : pageInFlight s = true → s.curAddr < s.lastBoundary
  none_sent : beforePages s = true → s.pageIdx = 0
  all_sent : afterPages s = true → s.lastBoundary ≤ s.curAddr

/-- The protocol invariant: TXLOG and RXCNT are what 43_upload_protocol.md R227 says at every moment of a run. -/
structure UploadInv (s : State) : Prop where
  log : s.txLog = expectedTxLog s
  reads : s.rxCnt = expectedReads s
  plan : planMade s = true → PlanOk s
  fresh : planMade s = false → s.pageIdx = 0
  /-- After S_INIT_TX the INIT reply is awaited only where CFG.INIT is configured. -/
  initAwaited : s.st = .sInitAck ∨ (s.st = .sAborted ∧ s.result = .fail .initFailed) → s.cfg.initSeq ≠ none

/-! ## Lines and stores, in the spec's own terms -/

/-- The line has the start marker and every field of `r` at the positions of 30_encoding.md R91, each two hex
characters (40_record_decoder.md R131 to R135); nothing is said of the checksum. -/
structure LineFields (l : Line) (r : Record) : Prop where
  marker : l[0]? = some 0x3A#8
  len : hexbyte l 1 = some r.len
  addr : ∃ ah al : Byte, hexbyte l 3 = some ah ∧ hexbyte l 5 = some al ∧ r.addr.toNat = 256 * ah.toNat + al.toNat
  rtype : hexbyte l 7 = some r.rtype
  length : r.payload.length = r.len.toNat
  payload : ∀ i, i < r.len.toNat → hexbyte l (9 + 2 * i) = r.payload[i]?
  csum : hexbyte l (9 + 2 * r.len.toNat) = some r.csum

/-- `E` of 40_record_decoder.md R137, `(256 - S) mod 256`, from the fields as numbers. -/
def requiredChecksum (r : Record) : Nat :=
  (256 - (r.len.toNat + r.addr.toNat / 256 + r.addr.toNat % 256 + r.rtype.toNat
    + (r.payload.map BitVec.toNat).sum) % 256) % 256

/-- The rows of 30_encoding.md R93: the record type selects the instruction. -/
def typeSelects (r : Record) (i : Instr) : Prop :=
  (r.rtype = 0x00#8 ∧ i = .recData r) ∨ (r.rtype = 0x01#8 ∧ i = .recEof r) ∨
  (r.rtype ≠ 0x00#8 ∧ r.rtype ≠ 0x01#8 ∧ i = .recSkip r)

/-- The line with every hex digit in lower case. -/
def lowerCase (l : Line) : Line :=
  l.map (fun c => if 0x41 ≤ c.toNat ∧ c.toNat ≤ 0x46 then c + 0x20#8 else c)

/-- A Data byte at `t` passes the strict test and the capacity test (41_image_builder.md R163, R165). -/
def legalTarget (c : Cfg) (t : Nat) : Prop := t < c.flSize ∧ (c.strict = true → c.blSize ≤ t)

/-- Reading the image of `t` gives `bs` from address `a` on and what `s` gives everywhere else. -/
def stores (s t : State) (a : Nat) (bs : List Byte) : Prop :=
  ∀ x, imgRead t x = if h : a ≤ x ∧ x - a < bs.length then bs[x - a]'h.2 else imgRead s x

/-- The watermark after bytes at the `n` addresses from `t` on (41_image_builder.md R166). -/
def watermark (hwm t n : Nat) : Nat := if n = 0 then hwm else max hwm (t + (n - 1))

/-! ## What decoding writes (41_image_builder.md R168) -/

/-- The cells a payload is written to from address `t`. -/
def placed (t : Nat) : List Byte → List Host.Cell
  | [] => []
  | b :: bs => (t, b) :: placed (t + 1) bs

/-- The cells the Data records of an input write, in order, up to the first EOF record or the first line that does
not decode. -/
def dataWrites : List Line → List Host.Cell
  | [] => []
  | l :: ls =>
    match decode .line l with
    | .ok (.recData r) => placed r.addr.toNat r.payload ++ dataWrites ls
    | .ok (.recSkip _) => dataWrites ls
    | _ => []

/-- The byte of the last write to `a`, 0x00 where there is none. -/
def lastWritten (a : Nat) : List Host.Cell → Byte
  | [] => 0#8
  | (k, b) :: ws => if a ∈ ws.map Prod.fst then lastWritten a ws else if k = a then b else 0#8

/-- The maximum address written, 0 where there is none. -/
def maxWritten : List Host.Cell → Nat
  | [] => 0
  | (k, _) :: ws => max k (maxWritten ws)

/-! ## The whole run as one function (45_run_sequencer.md R278) -/

/-- The `while LINE_IDX < len(LINES)` loop over the lines that remain. -/
def runLines : List Line → State → State
  | [], s => { s with st := .sPlan }
  | l :: ls, s =>
    match decodeRecord l with
    | .error e => abort (lineError s.lineIdx e) s
    | .ok r =>
      if r.rtype = typeEof then { latchRecord r s with st := .sPlan }
      else if r.rtype = typeData then
        match applyRecord r (latchRecord r s) with
        | (s', some e) => abort e s'
        | (s', none) => runLines ls (nextLine s')
      else runLines ls (nextLine (latchRecord r s))

/-- `Expect(e, T)` followed by the rest of the run (43_upload_protocol.md R203). -/
def expectThen (e : Byte) (err : RunError) (s : State) (rest : State → State) : State :=
  if nextAnswer s = .byte e then rest (countRead s) else abort err (countRead s)

/-- The body of the page loop, followed by the rest of the run. -/
def runPage (s : State) (rest : State → State) : State :=
  expectThen ackByte (.noAck .sof) (tx [cmdSof] s) fun s =>
  expectThen ackByte (.noAck .addr) (tx (le32 (BitVec.ofNat 32 s.curAddr)) s) fun s =>
  expectThen ackByte (.noAck .data) (tx (pageBytes s) s) fun s =>
  expectThen crcAckByte (.noAck .checksum) (tx (le32 (pageCrc s.cfg.crc (pageBytes s))) s) fun s =>
  expectThen ackByte .flashFailed s fun s => rest (advancePage s)

/-- `Tx([0xA2]); CH_OPEN <- 0; RESULT <- Success; ST <- S_DONE`. -/
def runReboot (s : State) : State :=
  { tx [cmdReboot] s with chOpen := false, result := .success, st := .sDone }

/-- The `while CUR_ADDR < LAST_BOUNDARY` loop and the end of the run; `fuel` bounds the number of pages. -/
def runPages : Nat → State → State
  | 0, s => runReboot s
  | fuel + 1, s => if s.curAddr < s.lastBoundary then runPage s (runPages fuel) else runReboot s

/-- `plan` (42_page_scheduler.md R188). -/
def runPlan (s : State) : State :=
  { s with
    lastBoundary := pageCeil s.hwm s.cfg.pageSize * s.cfg.pageSize
    pageCount := (pageCeil s.hwm s.cfg.pageSize : Int) - (s.cfg.blSize / s.cfg.pageSize : Nat)
    curAddr := firstPage s.cfg }

/-- From the channel acquire to the end. -/
def runUpload (s : State) : State :=
  match s.cfg.initSeq with
  | none => runPages s.lastBoundary { s with chOpen := true }
  | some seq => expectThen initAckByte .initFailed (tx seq { s with chOpen := true }) (runPages s.lastBoundary)

/-- `run(CFG, LINES, ans)` (45_run_sequencer.md R278): the state the run ends in. -/
def wholeRun (cfg : Cfg) (lines : List Line) (ans : List Answer) : State :=
  if cfg.pageSize = 0 ∨ cfg.flSize ≤ cfg.blSize then abort .configError (State.start cfg lines ans)
  else
    let s := runLines lines (State.start cfg lines ans)
    if s.st = .sPlan then runUpload (runPlan s) else s

end Sys2Proof.Machine
end

