-- ==== Sys2Proof/Certificates/Slice0/Obligations.lean ====
section
/-! DEFINITION. The statements for the provers. Each docstring names the rule of spec/ it formalises; a statement
that rests on a choice of the model says so and names the assumption log's entry. -/

open Sys2Proof Sys2Proof.Machine

/-! ## The record decoder (HRD) -/

/-- A line decodes to an instruction exactly when it has the start marker, every field as two hex characters at its
position, and the checksum its fields require; the type field selects the row (R91, R93, R131 to R138, R140). -/
def Obligations.LineDecodesIffFieldsAndChecksum : Prop :=
  ∀ (l : Line) (i : Instr), decode .line l = .ok i ↔
    ∃ r : Record, LineFields l r ∧ r.csum.toNat = requiredChecksum r ∧ typeSelects r i

/-- R137: fields present and `E != CC` is ChecksumMismatch(expected = E, actual = CC), whatever the type. -/
def Obligations.WrongChecksumIsChecksumMismatch : Prop :=
  ∀ (l : Line) (r : Record), LineFields l r → r.csum.toNat ≠ requiredChecksum r →
    ∃ e : Byte, e.toNat = requiredChecksum r ∧ decode .line l = .error (.checksumMismatch e r.csum)

/-- R131, R133, R139: a line is malformed exactly when no record has its start marker and fields; this test comes
before the checksum. -/
def Obligations.MalformedIffSomeFieldMissing : Prop :=
  ∀ l : Line, decode .line l = .error .malformedLine ↔ ¬ ∃ r : Record, LineFields l r

/-- R136: characters at positions `11 + 2 * L` and beyond are not examined: two lines that agree below that position,
`L` the first line's length field, decode alike. -/
def Obligations.TextAfterChecksumIsNotExamined : Prop :=
  ∀ (l l' : Line) (n : Byte), hexbyte l 1 = some n →
    (∀ p, p < 11 + 2 * n.toNat → l'[p]? = l[p]?) → decode .line l' = decode .line l

/-- R15 (decision D4): lower-case hex digits decode as upper-case ones. -/
def Obligations.LowerCaseDecodesAlike : Prop :=
  ∀ l : Line, decode .line (lowerCase l) = decode .line l

/-- R144: in a line that decodes, one payload byte rewritten to a different byte value (both hex characters, the rest
kept) gives ChecksumMismatch with the unchanged checksum field as `actual`. -/
def Obligations.SinglePayloadByteChangeIsRejected : Prop :=
  ∀ (l : Line) (i : Instr) (r : Record) (k : Nat) (c d : Byte), decode .line l = .ok i → LineFields l r →
    k < r.len.toNat →
    hexbyte ((l.set (9 + 2 * k) c).set (10 + 2 * k) d) (9 + 2 * k) ≠ none →
    hexbyte ((l.set (9 + 2 * k) c).set (10 + 2 * k) d) (9 + 2 * k) ≠ r.payload[k]? →
    ∃ e : Byte, e ≠ r.csum ∧
      decode .line ((l.set (9 + 2 * k) c).set (10 + 2 * k) d) = .error (.checksumMismatch e r.csum)

/-! ## Encodings -/

/-- Decoding the words of a well-formed instruction, in the slot where it is met, gives the instruction back: every
record with every field at every value, every frame with every operand, every reply (30_encoding.md; the record
encoder is the model's, assumption log 13). -/
def Obligations.DecodeOfEncodeIsTheInstruction : Prop :=
  ∀ (i : Instr) (o : FrameOperands), i.wellFormed = true →
    decode (i.slot o.page.length) (encode o i) = .ok i

/-- R65, R100, R102: a 32-bit value is sent as `v[7:0], v[15:8], v[23:16], v[31:24]`, and the four bytes give it
back. -/
def Obligations.FourByteFramesAreLittleEndian : Prop :=
  ∀ v : BitVec 32,
    (le32 v).map BitVec.toNat = [v.toNat % 256, v.toNat / 256 % 256, v.toNat / 65536 % 256, v.toNat / 16777216] ∧
    le32Value (le32 v) = some v

/-- A few words of the spec decode to the instruction they stand for (95_test_vectors.md H1, H2, H5; 30_encoding.md
R99, R103, R105). A sanity statement. -/
def Obligations.SpecWordsDecode : Prop :=
  decode .line [0x3A, 0x30, 0x30, 0x30, 0x30, 0x30, 0x30, 0x30, 0x31, 0x46, 0x46]
      = .ok (.recEof ⟨0x00, 0x0000, 0x01, [], 0xFF⟩) ∧
    decode .line [0x3A, 0x30, 0x32, 0x30, 0x34, 0x30, 0x30, 0x30, 0x30, 0x41, 0x41, 0x35, 0x35, 0x46, 0x42]
      = .ok (.recData ⟨0x02, 0x0400, 0x00, [0xAA, 0x55], 0xFB⟩) ∧
    decode .sofFrame [0xA0] = .ok .txSof ∧ decode .rebootFrame [0xA2] = .ok .txReboot ∧
    decode .crcReply [0x77] = .ok .rxCrcAck ∧ decode .pageReply [0x55] = .ok .rxAckPage ∧
    decode .crcReply [0x55] = .error .wrongReply

/-! ## One step -/

/-- A step runs the decoded instruction: in S_DECODE the one the line at LINE_IDX decodes to, in a state that sends
or expects an item the one its slot names; the step adds nothing around it (R16, R268). -/
def Obligations.StepRunsTheDecodedInstruction : Prop :=
  (∀ (s : State) (l : Line) (i : Instr), s.st = .sDecode → s.lines[s.lineIdx]? = some l →
    decode .line l = .ok i → i.wellFormed = true ∧ step s = exec i s) ∧
  (∀ (s : State) (i : Instr) (n : Nat), i.slot n ≠ .line → s.st = guardOf i → step s = exec i s)

/-- R268, R291, R292: a line that does not decode aborts with MalformedLine(LINE_IDX) or ChecksumMismatch(expected,
actual); LINE_IDX stays at the offending line and nothing but RESULT, CH_OPEN and ST is written. -/
def Obligations.UndecodableLineAborts : Prop :=
  ∀ (s : State) (l : Line), s.st = .sDecode → s.lines[s.lineIdx]? = some l →
    (decode .line l = .error .malformedLine →
      step s = .next { s with result := .fail (.malformedLine s.lineIdx), chOpen := false, st := .sAborted }) ∧
    (∀ e a : Byte, decode .line l = .error (.checksumMismatch e a) →
      step s = .next { s with result := .fail (.checksumMismatch e a), chOpen := false, st := .sAborted })

/-- A meaning run in a state its guard does not name has no effect the spec gives: it is refused by name (R16; the
model's choice, assumption log 6). -/
def Obligations.GuardNotMetIsRefused : Prop :=
  ∀ (i : Instr) (s : State), s.st ≠ guardOf i → exec i s = .refused .guardNotMet

/-- R68, R70: `Tx` and `RxRead` require CH_OPEN = 1; with CH_OPEN = 0 every row that sends or reads stops by name, in
states no run reaches (the model's choice, assumption log 7). TX.INIT with CFG.INIT = None sends nothing and is not
among them. -/
def Obligations.ClosedChannelFaults : Prop :=
  ∀ (i : Instr) (s : State) (n : Nat), i.slot n ≠ .line → s.st = guardOf i → s.chOpen = false →
    (i = .txInit → s.cfg.initSeq ≠ none) → exec i s = .fault .channelNotOpen

/-! ## The REC rows (MIB) -/

/-- R141, R161 to R166, R269: a Data record whose bytes all have legal targets is written whole; byte `i` of the
payload goes to GOFF + REC.addr + i, HWM becomes the maximum, LINE_IDX advances; nothing else changes. -/
def Obligations.RecDataWritesItsPayload : Prop :=
  ∀ (s : State) (r : Record), s.st = .sDecode → s.image.wf = true →
    (∀ k, k < r.payload.length → legalTarget s.cfg (s.goff + r.addr.toNat + k)) →
    ∃ t, exec (.recData r) s = .next t ∧
      t = { s with recLatch := r, lineIdx := s.lineIdx + 1, image := t.image,
                   hwm := watermark s.hwm (s.goff + r.addr.toNat) r.payload.length } ∧
      stores s t (s.goff + r.addr.toNat) r.payload

/-- R163, R293, R306: in strict mode the first byte below CFG.BL_SIZE or at or beyond CFG.FL_SIZE aborts the run with
RangeViolation(its address, LINE_IDX); the bytes before it are written and counted in HWM, no other is. -/
def Obligations.StrictRangeViolationAborts : Prop :=
  ∀ (s : State) (r : Record) (k : Nat), s.st = .sDecode → s.image.wf = true → s.cfg.strict = true →
    k < r.payload.length →
    (∀ j, j < k → legalTarget s.cfg (s.goff + r.addr.toNat + j)) →
    (s.goff + r.addr.toNat + k < s.cfg.blSize ∨ s.cfg.flSize ≤ s.goff + r.addr.toNat + k) →
    ∃ t, exec (.recData r) s = .next t ∧
      t = { s with recLatch := r, image := t.image,
                   hwm := watermark s.hwm (s.goff + r.addr.toNat) k,
                   result := .fail (.rangeViolation (s.goff + r.addr.toNat + k) s.lineIdx),
                   chOpen := false, st := .sAborted } ∧
      stores s t (s.goff + r.addr.toNat) (r.payload.take k)

/-- R165, R301, R306: with CFG.STRICT = 0 the first byte at or beyond CFG.FL_SIZE aborts the run with
Panic(CapacityViolation(its address, LINE_IDX)); the bytes before it are written, it is not, and HWM is not updated
for it. That the panic is taken by the abort sequence is assumption log 9. -/
def Obligations.CapacityPanicAborts : Prop :=
  ∀ (s : State) (r : Record) (k : Nat), s.st = .sDecode → s.image.wf = true → s.cfg.strict = false →
    k < r.payload.length →
    (∀ j, j < k → s.goff + r.addr.toNat + j < s.cfg.flSize) →
    s.cfg.flSize ≤ s.goff + r.addr.toNat + k →
    ∃ t, exec (.recData r) s = .next t ∧
      t = { s with recLatch := r, image := t.image,
                   hwm := watermark s.hwm (s.goff + r.addr.toNat) k,
                   result := .fail (.capacityPanic (s.goff + r.addr.toNat + k) s.lineIdx),
                   chOpen := false, st := .sAborted } ∧
      stores s t (s.goff + r.addr.toNat) (r.payload.take k)

/-- The frame of REC.DATA on every path: outside the addresses GOFF + REC.addr to GOFF + REC.addr + len - 1 every
byte of the image reads as before; configuration, input, plan, progress and channel history are unchanged. -/
def Obligations.RecDataFrame : Prop :=
  ∀ (s t : State) (r : Record), s.image.wf = true → exec (.recData r) s = .next t →
    (∀ a, ¬ (targetBase s r ≤ a ∧ a < targetBase s r + r.payload.length) → imgRead t a = imgRead s a) ∧
    t.cfg = s.cfg ∧ t.lines = s.lines ∧ t.ans = s.ans ∧ t.goff = s.goff ∧ t.pageCount = s.pageCount ∧
    t.lastBoundary = s.lastBoundary ∧ t.curAddr = s.curAddr ∧ t.pageIdx = s.pageIdx ∧ t.rxCnt = s.rxCnt ∧
    t.txLog = s.txLog ∧ t.image.wf = true ∧ s.hwm ≤ t.hwm

/-- R142, R271: "After an EndOfFile record, `ST <- S_PLAN`; LINE_IDX keeps the index of the EOF line." IMAGE and HWM
are not touched; the decoded record is latched in the same step (assumption log 17). -/
def Obligations.RecEofEndsDecoding : Prop :=
  ∀ (s : State) (r : Record), s.st = .sDecode →
    exec (.recEof r) s = .next { s with recLatch := r, st := .sPlan }

/-- R143, R270: a skipped record advances LINE_IDX and has no other effect; the decoded record is latched in the
same step (assumption log 17). -/
def Obligations.RecSkipOnlyAdvances : Prop :=
  ∀ (s : State) (r : Record), s.st = .sDecode →
    exec (.recSkip r) s = .next { s with recLatch := r, lineIdx := s.lineIdx + 1 }

/-! ## The TX rows (UPF) -/

/-- R205: INIT send. With CFG.INIT = None nothing is sent and ST becomes S_PAGE_TEST; with Some(seq) the sequence is
sent and ST becomes S_INIT_ACK. -/
def Obligations.TxInitSendsTheConfiguredSequence : Prop :=
  ∀ s : State, s.st = .sInitTx →
    (s.cfg.initSeq = none → exec .txInit s = .next { s with st := .sPageTest }) ∧
    (∀ seq, s.cfg.initSeq = some seq → s.chOpen = true →
      exec .txInit s = .next { s with txLog := s.txLog ++ seq, st := .sInitAck })

/-- R210: SOF send. -/
def Obligations.TxSofSendsA0 : Prop :=
  ∀ s : State, s.st = .sSofTx → s.chOpen = true →
    exec .txSof s = .next { s with txLog := s.txLog ++ [0xA0#8], st := .sSofAck }

/-- R212: ADDR send, the low 32 bits of CUR_ADDR least significant byte first. -/
def Obligations.TxAddrSendsCurAddrLittleEndian : Prop :=
  ∀ s : State, s.st = .sAddrTx → s.chOpen = true →
    exec .txAddr s = .next { s with
      txLog := s.txLog ++ [BitVec.ofNat 8 s.curAddr, BitVec.ofNat 8 (s.curAddr / 256),
        BitVec.ofNat 8 (s.curAddr / 65536), BitVec.ofNat 8 (s.curAddr / 16777216)],
      st := .sAddrAck }

/-- R214: DATA send, `D[i] = ImgRead(CUR_ADDR + i)` for i = 0 .. CFG.PAGE_SIZE - 1. -/
def Obligations.TxDataSendsThePage : Prop :=
  ∀ s : State, s.st = .sDataTx → s.chOpen = true →
    exec .txData s = .next { s with
      txLog := s.txLog ++ (List.range s.cfg.pageSize).map (fun i => imgRead s (s.curAddr + i)),
      st := .sDataAck }

/-- R217: CRC send, CRC32 over the same CFG.PAGE_SIZE bytes of the page, least significant byte first. `pageCrc` is
the configuration field CRC32 (R250, assumption log 4). -/
def Obligations.TxCrcSendsThePageChecksum : Prop :=
  ∀ s : State, s.st = .sCrcTx → s.chOpen = true →
    exec .txCrc s = .next { s with
      txLog := s.txLog ++
        le32 (pageCrc s.cfg.crc ((List.range s.cfg.pageSize).map (fun i => imgRead s (s.curAddr + i)))),
      st := .sCrcAck }

/-- R224: REBOOT. `Tx([0xA2]); CH_OPEN <- 0; RESULT <- Success; ST <- S_DONE`; no read is made. -/
def Obligations.TxRebootEndsTheRun : Prop :=
  ∀ s : State, s.st = .sRebootTx → s.chOpen = true →
    exec .txReboot s = .next { s with
      txLog := s.txLog ++ [0xA2#8], chOpen := false, result := .success, st := .sDone }

/-! ## The RX rows (UPF) -/

/-- R206: INIT acknowledge. `Byte(0x01)` goes on to S_PAGE_TEST; any other answer, a timeout included, is
InitFailed. -/
def Obligations.RxInitAckClassifies : Prop :=
  ∀ s : State, s.st = .sInitAck → s.chOpen = true →
    (nextAnswer s = .byte 0x01#8 →
      exec .rxInitAck s = .next { s with rxCnt := s.rxCnt + 1, st := .sPageTest }) ∧
    (nextAnswer s ≠ .byte 0x01#8 →
      exec .rxInitAck s = .next { s with
        rxCnt := s.rxCnt + 1, result := .fail .initFailed, chOpen := false, st := .sAborted })

/-- R211: SOF acknowledge. -/
def Obligations.RxAckSofClassifies : Prop :=
  ∀ s : State, s.st = .sSofAck → s.chOpen = true →
    (nextAnswer s = .byte 0x55#8 →
      exec .rxAckSof s = .next { s with rxCnt := s.rxCnt + 1, st := .sAddrTx }) ∧
    (nextAnswer s ≠ .byte 0x55#8 →
      exec .rxAckSof s = .next { s with
        rxCnt := s.rxCnt + 1, result := .fail (.noAck .sof), chOpen := false, st := .sAborted })

/-- R213: ADDR acknowledge. -/
def Obligations.RxAckAddrClassifies : Prop :=
  ∀ s : State, s.st = .sAddrAck → s.chOpen = true →
    (nextAnswer s = .byte 0x55#8 →
      exec .rxAckAddr s = .next { s with rxCnt := s.rxCnt + 1, st := .sDataTx }) ∧
    (nextAnswer s ≠ .byte 0x55#8 →
      exec .rxAckAddr s = .next { s with
        rxCnt := s.rxCnt + 1, result := .fail (.noAck .addr), chOpen := false, st := .sAborted })

/-- R215: DATA acknowledge. -/
def Obligations.RxAckDataClassifies : Prop :=
  ∀ s : State, s.st = .sDataAck → s.chOpen = true →
    (nextAnswer s = .byte 0x55#8 →
      exec .rxAckData s = .next { s with rxCnt := s.rxCnt + 1, st := .sCrcTx }) ∧
    (nextAnswer s ≠ .byte 0x55#8 →
      exec .rxAckData s = .next { s with
        rxCnt := s.rxCnt + 1, result := .fail (.noAck .data), chOpen := false, st := .sAborted })

/-- R218: CRC acknowledge, whose expected byte is 0x77; 0x55 is a mismatch here. -/
def Obligations.RxCrcAckClassifies : Prop :=
  ∀ s : State, s.st = .sCrcAck → s.chOpen = true →
    (nextAnswer s = .byte 0x77#8 →
      exec .rxCrcAck s = .next { s with rxCnt := s.rxCnt + 1, st := .sPageAck }) ∧
    (nextAnswer s ≠ .byte 0x77#8 →
      exec .rxCrcAck s = .next { s with
        rxCnt := s.rxCnt + 1, result := .fail (.noAck .checksum), chOpen := false, st := .sAborted })

/-- R220, R222: page complete. Nothing is sent; on 0x55 the page advance happens in the same step; anything else is
FlashFailed. -/
def Obligations.RxAckPageAdvancesThePage : Prop :=
  ∀ s : State, s.st = .sPageAck → s.chOpen = true →
    (nextAnswer s = .byte 0x55#8 →
      exec .rxAckPage s = .next { s with
        rxCnt := s.rxCnt + 1, curAddr := s.curAddr + s.cfg.pageSize, pageIdx := s.pageIdx + 1,
        st := .sPageTest }) ∧
    (nextAnswer s ≠ .byte 0x55#8 →
      exec .rxAckPage s = .next { s with
        rxCnt := s.rxCnt + 1, result := .fail .flashFailed, chOpen := false, st := .sAborted })

/-- R70: the answer a read returns is number RXCNT of the environment's sequence: the supplied one where `ans`
reaches that far (assumption log 3). -/
def Obligations.ReadReturnsAnswerNumberRxCnt : Prop :=
  ∀ (s : State) (a : Answer), s.ans[s.rxCnt]? = some a → nextAnswer s = a

/-- The frame of the fourteen rows that store nothing (REC.EOF, REC.SKIP, the TX and the RX rows): every address of
the image reads as before, and the watermark, the offset, the configuration, the input, the answers and the plan
registers are unchanged. -/
def Obligations.NonStoringRowsFrame : Prop :=
  ∀ (i : Instr) (s t : State), (∀ r, i ≠ .recData r) → exec i s = .next t →
    (∀ a, imgRead t a = imgRead s a) ∧ t.image = s.image ∧ t.hwm = s.hwm ∧ t.goff = s.goff ∧ t.cfg = s.cfg ∧
    t.lines = s.lines ∧ t.ans = s.ans ∧ t.pageCount = s.pageCount ∧ t.lastBoundary = s.lastBoundary ∧
    (i ≠ .rxAckPage → t.curAddr = s.curAddr ∧ t.pageIdx = s.pageIdx)

/-! ## The sequencer and the plan -/

/-- R267: the configuration check. -/
def Obligations.ConfigurationCheck : Prop :=
  ∀ s : State, s.st = .sIdle →
    (s.cfg.pageSize = 0 ∨ s.cfg.flSize ≤ s.cfg.blSize →
      step s = .next { s with result := .fail .configError, chOpen := false, st := .sAborted }) ∧
    (¬ (s.cfg.pageSize = 0 ∨ s.cfg.flSize ≤ s.cfg.blSize) → step s = .next { s with st := .sDecode })

/-- R272: running out of lines in S_DECODE goes to S_PLAN, nothing else changing. -/
def Obligations.EndOfInputGoesToPlan : Prop :=
  ∀ s : State, s.st = .sDecode → s.lines.length ≤ s.lineIdx → step s = .next { s with st := .sPlan }

/-- R181 to R184, R188: the plan step under R180's precondition CFG.PAGE_SIZE > 0, `n0` the least integer with
`n0 * CFG.PAGE_SIZE >= HWM`. -/
def Obligations.PlanStep : Prop :=
  ∀ s : State, s.st = .sPlan → 0 < s.cfg.pageSize →
    ∃ n0 : Nat, s.hwm ≤ n0 * s.cfg.pageSize ∧ (∀ m : Nat, s.hwm ≤ m * s.cfg.pageSize → n0 ≤ m) ∧
      step s = .next { s with
        lastBoundary := n0 * s.cfg.pageSize
        pageCount := (n0 : Int) - (s.cfg.blSize / s.cfg.pageSize : Nat)
        curAddr := s.cfg.blSize / s.cfg.pageSize * s.cfg.pageSize
        st := .sOpen }

/-- The plan step with CFG.PAGE_SIZE = 0, which R180's precondition excludes and no run reaches, stops by name (the
model's choice, assumption log 8). -/
def Obligations.PlanWithoutPageSizeStops : Prop :=
  ∀ s : State, s.st = .sPlan → s.cfg.pageSize = 0 → step s = .fault .pageSizeZero

/-- R275: the channel acquire. -/
def Obligations.ChannelAcquire : Prop :=
  ∀ s : State, s.st = .sOpen → step s = .next { s with chOpen := true, st := .sInitTx }

/-- R209: the page loop test. -/
def Obligations.PageLoopTest : Prop :=
  ∀ s : State, s.st = .sPageTest →
    (s.curAddr < s.lastBoundary → step s = .next { s with st := .sSofTx }) ∧
    (s.lastBoundary ≤ s.curAddr → step s = .next { s with st := .sRebootTx })

/-- R30, R308: S_DONE and S_ABORTED are terminal; the step refuses by name there and nowhere else (log 10). -/
def Obligations.StepRefusesExactlyAtTheEnd : Prop :=
  ∀ s : State, (step s = .refused .runEnded ↔ s.st = .sDone ∨ s.st = .sAborted) ∧
    ∀ q, step s = .refused q → q = .runEnded

/-- R184, R185, R187: the planned pages are exactly the multiples of CFG.PAGE_SIZE from the bootloader size rounded
down to a page up to LAST_BOUNDARY, exclusive, in ascending order, and there are max(0, PAGE_COUNT) of them. -/
def Obligations.PlannedPagesAreTheRange : Prop :=
  ∀ (c : Cfg) (hwm : Nat), 0 < c.pageSize →
    (∀ p, p ∈ plannedPages c hwm ↔
      c.pageSize ∣ p ∧ c.blSize / c.pageSize * c.pageSize ≤ p ∧ p < pageCeil hwm c.pageSize * c.pageSize) ∧
    (plannedPages c hwm).Pairwise (· < ·) ∧
    ((plannedPages c hwm).length : Int) = max 0 ((pageCeil hwm c.pageSize : Int) - (c.blSize / c.pageSize : Nat))

/-! ## Abort -/

/-- R305, R306: "Aborts are precise": a step that aborts sets RESULT to a Fail, CH_OPEN to 0 and ST to S_ABORTED, counts
the failing read where its state reads a reply, and writes nothing else outside S_DECODE. In S_DECODE it keeps IMAGE,
HWM and REC where the line does not decode; otherwise the line is a Data record with an offending byte `k`: the record
is latched (assumption log 17), the bytes before it are in IMAGE and counted in HWM, no other is. -/
def Obligations.AbortingStepIsPrecise : Prop :=
  ∀ s t : State, step s = .next t → t.st = .sAborted →
    (∃ e, t.result = .fail e) ∧ t.chOpen = false ∧ t.cfg = s.cfg ∧ t.lines = s.lines ∧ t.ans = s.ans ∧
    t.lineIdx = s.lineIdx ∧ t.goff = s.goff ∧ t.pageCount = s.pageCount ∧ t.lastBoundary = s.lastBoundary ∧
    t.curAddr = s.curAddr ∧ t.pageIdx = s.pageIdx ∧ t.txLog = s.txLog ∧
    t.rxCnt = s.rxCnt + (if readsReply s.st then 1 else 0) ∧
    (s.st ≠ .sDecode → t.image = s.image ∧ t.hwm = s.hwm ∧ t.recLatch = s.recLatch) ∧
    (s.st = .sDecode → ∃ l, s.lines[s.lineIdx]? = some l ∧
      (((∃ e, decode .line l = .error e) ∧ t.image = s.image ∧ t.hwm = s.hwm ∧ t.recLatch = s.recLatch) ∨
        ∃ (r : Record) (k : Nat), decode .line l = .ok (.recData r) ∧ k < r.payload.length ∧
          (∀ j, j < k → legalTarget s.cfg (s.goff + r.addr.toNat + j)) ∧
          ¬ legalTarget s.cfg (s.goff + r.addr.toNat + k) ∧ t.recLatch = r ∧
          t.hwm = watermark s.hwm (s.goff + r.addr.toNat) k ∧
          (s.image.wf = true → stores s t (s.goff + r.addr.toNat) (r.payload.take k))))

/-- R290, R302: each error is raised only in the state named for it; a step that leaves a RESULT `Fail(e)` it did not
find was in that state. -/
def Obligations.ErrorsAreRaisedWhereNamed : Prop :=
  ∀ (s t : State) (e : RunError), step s = .next t → t.result = .fail e → s.result ≠ .fail e →
    s.st = raisedIn e ∧ t.st = .sAborted

/-! ## Properties of every step -/

/-- R27: no rule writes CFG.* or LINES; nor the environment's answers. -/
def Obligations.ConfigurationIsNeverWritten : Prop :=
  ∀ s t : State, step s = .next t → t.cfg = s.cfg ∧ t.lines = s.lines ∧ t.ans = s.ans ∧ t.goff = s.goff

/-- R79: IMAGE is read-only outside S_DECODE. So are the watermark, written with the image only (R36, R166), and REC,
written by the decode step only (R33, R138; assumption log 17); in every step HWM does not decrease (R36, R166). -/
def Obligations.ImageIsReadOnlyAfterDecode : Prop :=
  ∀ s t : State, step s = .next t →
    (s.st ≠ .sDecode → t.image = s.image ∧ t.hwm = s.hwm ∧ t.recLatch = s.recLatch) ∧ s.hwm ≤ t.hwm

/-- R44, R41: TXLOG is append-only, and a step that sends or reads does so with CH_OPEN = 1; a step makes at most one
read. -/
def Obligations.ChannelHistoryOnlyGrows : Prop :=
  ∀ s t : State, step s = .next t →
    (∃ bytes, t.txLog = s.txLog ++ bytes) ∧ (t.rxCnt = s.rxCnt ∨ t.rxCnt = s.rxCnt + 1) ∧
    (t.txLog ≠ s.txLog ∨ t.rxCnt ≠ s.rxCnt → s.chOpen = true)

/-- R265: the phases are passed in their order: a step never goes back to an earlier phase, and a step that does not
abort goes on to the next phase at most, skipping none. -/
def Obligations.PhasesPassInOrder : Prop :=
  ∀ s t : State, step s = .next t →
    phaseRank s.st ≤ phaseRank t.st ∧ (t.st ≠ .sAborted → phaseRank t.st ≤ phaseRank s.st + 1)

/-- R62, R63, R74: a read of the image returns the byte of the last write to that address, and a write at or beyond
CFG.FL_SIZE is not performed. -/
def Obligations.ImageReadAfterWrite : Prop :=
  ∀ (s : State) (a : Nat) (b : Byte), s.image.wf = true →
    (s.cfg.flSize ≤ a → imgWrite s a b = none) ∧
    (a < s.cfg.flSize → ∃ t, imgWrite s a b = some t ∧ t = { s with image := t.image } ∧ t.image.wf = true ∧
      ∀ x, imgRead t x = if x = a then b else imgRead s x)

/-! ## Invariants -/

/-- Reset leaves what R330 and R46 state: ST = S_IDLE, LINE_IDX, GOFF, HWM, PAGE_COUNT, LAST_BOUNDARY, CUR_ADDR,
PAGE_IDX and RXCNT 0, RESULT = None, CH_OPEN = 0, every byte of IMAGE 0x00, TXLOG empty. -/
def Obligations.ResetValues : Prop :=
  State.reset.st = .sIdle ∧ State.reset.lineIdx = 0 ∧ State.reset.goff = 0 ∧ State.reset.hwm = 0 ∧
  State.reset.pageCount = 0 ∧ State.reset.lastBoundary = 0 ∧ State.reset.curAddr = 0 ∧ State.reset.pageIdx = 0 ∧
  State.reset.result = .none ∧ State.reset.chOpen = false ∧ (∀ a, memRead State.reset.image a = 0x00#8) ∧
  State.reset.rxCnt = 0 ∧ State.reset.txLog = []

/-- The invariants hold right after reset, and still when the outside layer has supplied any configuration, any input
and any answers. That REC is well formed there rests on its reset value, the model's choice (assumption log 2). -/
def Obligations.InvariantsHoldAtTheStart : Prop :=
  (Inv State.reset ∧ UploadInv State.reset) ∧
  ∀ (cfg : Cfg) (lines : List Line) (ans : List Answer),
    Inv (State.start cfg lines ans) ∧ UploadInv (State.start cfg lines ans)

/-- Every step keeps the invariant: the image in canonical form, within CFG.FL_SIZE and under the watermark, the
watermark within its bounds, GOFF 0, the latched record well formed, CH_OPEN exactly while the channel is owned,
RESULT as ST says, the configuration legal (R35, R36, R40, R41, R42, R138). -/
def Obligations.StepKeepsInvariant : Prop :=
  ∀ s t : State, Inv s → step s = .next t → Inv t

/-- R201, R226, R227: every step keeps the protocol invariant: TXLOG holds the init bytes, the frames of the completed
pages and the frames of the page in flight, and RXCNT counts the replies, whichever state the upload stands or ended
in. -/
def Obligations.StepKeepsUploadInvariant : Prop :=
  ∀ s t : State, UploadInv s → step s = .next t → UploadInv t

/-- In every state of the invariant that is not terminal a step answers a next state: no fault and no refusal. -/
def Obligations.RunsDoNotStopEarly : Prop :=
  ∀ s : State, Inv s → s.st ≠ .sDone → s.st ≠ .sAborted → ∃ t, step s = .next t

/-- R40, R308: once RESULT is not None it never changes: in the invariant, no step is left. The refusal runEnded that
says so is the model's choice (assumption log 10). -/
def Obligations.OutcomeIsFinal : Prop :=
  ∀ s : State, Inv s → s.result ≠ .none → step s = .refused .runEnded

/-! ## Whole runs -/

/-- R225, R227: a run that ends in S_DONE has RESULT = Success, CH_OPEN = 0, PAGE_IDX = max(0, PAGE_COUNT), CUR_ADDR =
max(LAST_BOUNDARY, first page), and its TXLOG is the init bytes, the four frames of every planned page in order, and
0xA2; its length and the number of reads are as R227 says. -/
def Obligations.SuccessfulRunOutput : Prop :=
  ∀ (cfg : Cfg) (lines : List Line) (ans : List Answer) (k : Nat) (t : State),
    Host.Core.run Sys2Proof.core k (State.start cfg lines ans) = .next t → t.st = .sDone →
    t.result = .success ∧ t.chOpen = false ∧ (t.pageIdx : Int) = max 0 t.pageCount ∧
    t.curAddr = max t.lastBoundary (cfg.blSize / cfg.pageSize * cfg.pageSize) ∧
    t.txLog = cfg.initSeq.getD [] ++ (plannedPages cfg t.hwm).flatMap (fun p => (pageFrames t p).flatten)
      ++ [0xA2#8] ∧
    t.txLog.length = (cfg.initSeq.getD []).length + (plannedPages cfg t.hwm).length * (9 + cfg.pageSize) + 1 ∧
    t.rxCnt = 5 * (plannedPages cfg t.hwm).length + (if cfg.initSeq = none then 0 else 1)

/-- R278: the step rules and the function `run(CFG, LINES, ans)` describe the same runs: from every start the steps
reach the state the function ends in, and it is terminal. -/
def Obligations.StepsComputeTheWholeRun : Prop :=
  ∀ (cfg : Cfg) (lines : List Line) (ans : List Answer),
    (∃ k, Host.Core.run Sys2Proof.core k (State.start cfg lines ans) = .next (wholeRun cfg lines ans)) ∧
    terminal (wholeRun cfg lines ans).st = true

/-- R324: every run ends, within a number of steps fixed by the number of lines and the greatest watermark. -/
def Obligations.EveryRunEnds : Prop :=
  ∀ (cfg : Cfg) (lines : List Line) (ans : List Answer),
    ∃ k, k ≤ lines.length + 8 + 10 * 0x100FD ∧
      ∃ t, Host.Core.run Sys2Proof.core k (State.start cfg lines ans) = .next t ∧ terminal t.st = true

/-- R168: when decoding has ended without abort, HWM is the maximum address written (0 if none), every written address
holds the byte of the last write to it, and every other address reads 0x00. -/
def Obligations.ImageAfterDecoding : Prop :=
  ∀ (cfg : Cfg) (lines : List Line) (ans : List Answer) (k : Nat) (t : State),
    Host.Core.run Sys2Proof.core k (State.start cfg lines ans) = .next t → t.st = .sPlan →
    t.hwm = maxWritten (dataWrites lines) ∧ ∀ a, imgRead t a = lastWritten a (dataWrites lines)

/-- R273: lines after the first EOF record are never examined: with other lines there the run passes through the same
states, LINES apart. -/
def Obligations.LinesAfterEofAreNeverExamined : Prop :=
  ∀ (cfg : Cfg) (front rest rest' : List Line) (eof : Line) (r : Record) (ans : List Answer) (k : Nat) (t : State),
    decode .line eof = .ok (.recEof r) →
    Host.Core.run Sys2Proof.core k (State.start cfg (front ++ eof :: rest) ans) = .next t →
    Host.Core.run Sys2Proof.core k (State.start cfg (front ++ eof :: rest') ans)
      = .next { t with lines := front ++ eof :: rest' }

/-! ## The host interface -/

/-- R27: the outside layer writes CFG.* and LINES only while ST = S_IDLE (assumption log 19). -/
def Obligations.SupplyOnlyInIdle : Prop :=
  ∀ (cfg : Cfg) (lines : List Line) (ans : List Answer) (s : State),
    (s.st = .sIdle → supply cfg lines ans s = .next { s with cfg := cfg, lines := lines, ans := ans }) ∧
    (s.st ≠ .sIdle → supply cfg lines ans s = .refused .configLocked)
end

