-- ==== Sys2Proof/Laws/State.lean ====
section
/-! SUPPORT. One lemma per field per state update, each true by `rfl`: what the update writes and that it writes
nothing else. No later proof unfolds an update. -/

namespace Sys2Proof.Machine

variable (s : State)

/-! ## tx -/

@[simp] theorem tx_cfg (bytes : List Byte) : (tx bytes s).cfg = s.cfg := rfl
@[simp] theorem tx_lines (bytes : List Byte) : (tx bytes s).lines = s.lines := rfl
@[simp] theorem tx_ans (bytes : List Byte) : (tx bytes s).ans = s.ans := rfl
@[simp] theorem tx_st (bytes : List Byte) : (tx bytes s).st = s.st := rfl
@[simp] theorem tx_lineIdx (bytes : List Byte) : (tx bytes s).lineIdx = s.lineIdx := rfl
@[simp] theorem tx_recLatch (bytes : List Byte) : (tx bytes s).recLatch = s.recLatch := rfl
@[simp] theorem tx_goff (bytes : List Byte) : (tx bytes s).goff = s.goff := rfl
@[simp] theorem tx_hwm (bytes : List Byte) : (tx bytes s).hwm = s.hwm := rfl
@[simp] theorem tx_pageCount (bytes : List Byte) : (tx bytes s).pageCount = s.pageCount := rfl
@[simp] theorem tx_lastBoundary (bytes : List Byte) : (tx bytes s).lastBoundary = s.lastBoundary := rfl
@[simp] theorem tx_curAddr (bytes : List Byte) : (tx bytes s).curAddr = s.curAddr := rfl
@[simp] theorem tx_pageIdx (bytes : List Byte) : (tx bytes s).pageIdx = s.pageIdx := rfl
@[simp] theorem tx_result (bytes : List Byte) : (tx bytes s).result = s.result := rfl
@[simp] theorem tx_chOpen (bytes : List Byte) : (tx bytes s).chOpen = s.chOpen := rfl
@[simp] theorem tx_image (bytes : List Byte) : (tx bytes s).image = s.image := rfl
@[simp] theorem tx_rxCnt (bytes : List Byte) : (tx bytes s).rxCnt = s.rxCnt := rfl
@[simp] theorem tx_txLog (bytes : List Byte) : (tx bytes s).txLog = s.txLog ++ bytes := rfl

/-! ## countRead -/

@[simp] theorem countRead_cfg : (countRead s).cfg = s.cfg := rfl
@[simp] theorem countRead_lines : (countRead s).lines = s.lines := rfl
@[simp] theorem countRead_ans : (countRead s).ans = s.ans := rfl
@[simp] theorem countRead_st : (countRead s).st = s.st := rfl
@[simp] theorem countRead_lineIdx : (countRead s).lineIdx = s.lineIdx := rfl
@[simp] theorem countRead_recLatch : (countRead s).recLatch = s.recLatch := rfl
@[simp] theorem countRead_goff : (countRead s).goff = s.goff := rfl
@[simp] theorem countRead_hwm : (countRead s).hwm = s.hwm := rfl
@[simp] theorem countRead_pageCount : (countRead s).pageCount = s.pageCount := rfl
@[simp] theorem countRead_lastBoundary : (countRead s).lastBoundary = s.lastBoundary := rfl
@[simp] theorem countRead_curAddr : (countRead s).curAddr = s.curAddr := rfl
@[simp] theorem countRead_pageIdx : (countRead s).pageIdx = s.pageIdx := rfl
@[simp] theorem countRead_result : (countRead s).result = s.result := rfl
@[simp] theorem countRead_chOpen : (countRead s).chOpen = s.chOpen := rfl
@[simp] theorem countRead_image : (countRead s).image = s.image := rfl
@[simp] theorem countRead_rxCnt : (countRead s).rxCnt = s.rxCnt + 1 := rfl
@[simp] theorem countRead_txLog : (countRead s).txLog = s.txLog := rfl

/-! ## abort -/

@[simp] theorem abort_cfg (e : RunError) : (abort e s).cfg = s.cfg := rfl
@[simp] theorem abort_lines (e : RunError) : (abort e s).lines = s.lines := rfl
@[simp] theorem abort_ans (e : RunError) : (abort e s).ans = s.ans := rfl
@[simp] theorem abort_st (e : RunError) : (abort e s).st = .sAborted := rfl
@[simp] theorem abort_lineIdx (e : RunError) : (abort e s).lineIdx = s.lineIdx := rfl
@[simp] theorem abort_recLatch (e : RunError) : (abort e s).recLatch = s.recLatch := rfl
@[simp] theorem abort_goff (e : RunError) : (abort e s).goff = s.goff := rfl
@[simp] theorem abort_hwm (e : RunError) : (abort e s).hwm = s.hwm := rfl
@[simp] theorem abort_pageCount (e : RunError) : (abort e s).pageCount = s.pageCount := rfl
@[simp] theorem abort_lastBoundary (e : RunError) : (abort e s).lastBoundary = s.lastBoundary := rfl
@[simp] theorem abort_curAddr (e : RunError) : (abort e s).curAddr = s.curAddr := rfl
@[simp] theorem abort_pageIdx (e : RunError) : (abort e s).pageIdx = s.pageIdx := rfl
@[simp] theorem abort_result (e : RunError) : (abort e s).result = .fail e := rfl
@[simp] theorem abort_chOpen (e : RunError) : (abort e s).chOpen = false := rfl
@[simp] theorem abort_image (e : RunError) : (abort e s).image = s.image := rfl
@[simp] theorem abort_rxCnt (e : RunError) : (abort e s).rxCnt = s.rxCnt := rfl
@[simp] theorem abort_txLog (e : RunError) : (abort e s).txLog = s.txLog := rfl

/-! ## latchRecord -/

@[simp] theorem latchRecord_cfg (r : Record) : (latchRecord r s).cfg = s.cfg := rfl
@[simp] theorem latchRecord_lines (r : Record) : (latchRecord r s).lines = s.lines := rfl
@[simp] theorem latchRecord_ans (r : Record) : (latchRecord r s).ans = s.ans := rfl
@[simp] theorem latchRecord_st (r : Record) : (latchRecord r s).st = s.st := rfl
@[simp] theorem latchRecord_lineIdx (r : Record) : (latchRecord r s).lineIdx = s.lineIdx := rfl
@[simp] theorem latchRecord_recLatch (r : Record) : (latchRecord r s).recLatch = r := rfl
@[simp] theorem latchRecord_goff (r : Record) : (latchRecord r s).goff = s.goff := rfl
@[simp] theorem latchRecord_hwm (r : Record) : (latchRecord r s).hwm = s.hwm := rfl
@[simp] theorem latchRecord_pageCount (r : Record) : (latchRecord r s).pageCount = s.pageCount := rfl
@[simp] theorem latchRecord_lastBoundary (r : Record) : (latchRecord r s).lastBoundary = s.lastBoundary := rfl
@[simp] theorem latchRecord_curAddr (r : Record) : (latchRecord r s).curAddr = s.curAddr := rfl
@[simp] theorem latchRecord_pageIdx (r : Record) : (latchRecord r s).pageIdx = s.pageIdx := rfl
@[simp] theorem latchRecord_result (r : Record) : (latchRecord r s).result = s.result := rfl
@[simp] theorem latchRecord_chOpen (r : Record) : (latchRecord r s).chOpen = s.chOpen := rfl
@[simp] theorem latchRecord_image (r : Record) : (latchRecord r s).image = s.image := rfl
@[simp] theorem latchRecord_rxCnt (r : Record) : (latchRecord r s).rxCnt = s.rxCnt := rfl
@[simp] theorem latchRecord_txLog (r : Record) : (latchRecord r s).txLog = s.txLog := rfl

/-! ## nextLine -/

@[simp] theorem nextLine_cfg : (nextLine s).cfg = s.cfg := rfl
@[simp] theorem nextLine_lines : (nextLine s).lines = s.lines := rfl
@[simp] theorem nextLine_ans : (nextLine s).ans = s.ans := rfl
@[simp] theorem nextLine_st : (nextLine s).st = s.st := rfl
@[simp] theorem nextLine_lineIdx : (nextLine s).lineIdx = s.lineIdx + 1 := rfl
@[simp] theorem nextLine_recLatch : (nextLine s).recLatch = s.recLatch := rfl
@[simp] theorem nextLine_goff : (nextLine s).goff = s.goff := rfl
@[simp] theorem nextLine_hwm : (nextLine s).hwm = s.hwm := rfl
@[simp] theorem nextLine_pageCount : (nextLine s).pageCount = s.pageCount := rfl
@[simp] theorem nextLine_lastBoundary : (nextLine s).lastBoundary = s.lastBoundary := rfl
@[simp] theorem nextLine_curAddr : (nextLine s).curAddr = s.curAddr := rfl
@[simp] theorem nextLine_pageIdx : (nextLine s).pageIdx = s.pageIdx := rfl
@[simp] theorem nextLine_result : (nextLine s).result = s.result := rfl
@[simp] theorem nextLine_chOpen : (nextLine s).chOpen = s.chOpen := rfl
@[simp] theorem nextLine_image : (nextLine s).image = s.image := rfl
@[simp] theorem nextLine_rxCnt : (nextLine s).rxCnt = s.rxCnt := rfl
@[simp] theorem nextLine_txLog : (nextLine s).txLog = s.txLog := rfl

/-! ## goTo -/

@[simp] theorem goTo_cfg (g : St) : (goTo g s).cfg = s.cfg := rfl
@[simp] theorem goTo_lines (g : St) : (goTo g s).lines = s.lines := rfl
@[simp] theorem goTo_ans (g : St) : (goTo g s).ans = s.ans := rfl
@[simp] theorem goTo_st (g : St) : (goTo g s).st = g := rfl
@[simp] theorem goTo_lineIdx (g : St) : (goTo g s).lineIdx = s.lineIdx := rfl
@[simp] theorem goTo_recLatch (g : St) : (goTo g s).recLatch = s.recLatch := rfl
@[simp] theorem goTo_goff (g : St) : (goTo g s).goff = s.goff := rfl
@[simp] theorem goTo_hwm (g : St) : (goTo g s).hwm = s.hwm := rfl
@[simp] theorem goTo_pageCount (g : St) : (goTo g s).pageCount = s.pageCount := rfl
@[simp] theorem goTo_lastBoundary (g : St) : (goTo g s).lastBoundary = s.lastBoundary := rfl
@[simp] theorem goTo_curAddr (g : St) : (goTo g s).curAddr = s.curAddr := rfl
@[simp] theorem goTo_pageIdx (g : St) : (goTo g s).pageIdx = s.pageIdx := rfl
@[simp] theorem goTo_result (g : St) : (goTo g s).result = s.result := rfl
@[simp] theorem goTo_chOpen (g : St) : (goTo g s).chOpen = s.chOpen := rfl
@[simp] theorem goTo_image (g : St) : (goTo g s).image = s.image := rfl
@[simp] theorem goTo_rxCnt (g : St) : (goTo g s).rxCnt = s.rxCnt := rfl
@[simp] theorem goTo_txLog (g : St) : (goTo g s).txLog = s.txLog := rfl

/-! ## advancePage -/

@[simp] theorem advancePage_cfg : (advancePage s).cfg = s.cfg := rfl
@[simp] theorem advancePage_lines : (advancePage s).lines = s.lines := rfl
@[simp] theorem advancePage_ans : (advancePage s).ans = s.ans := rfl
@[simp] theorem advancePage_st : (advancePage s).st = s.st := rfl
@[simp] theorem advancePage_lineIdx : (advancePage s).lineIdx = s.lineIdx := rfl
@[simp] theorem advancePage_recLatch : (advancePage s).recLatch = s.recLatch := rfl
@[simp] theorem advancePage_goff : (advancePage s).goff = s.goff := rfl
@[simp] theorem advancePage_hwm : (advancePage s).hwm = s.hwm := rfl
@[simp] theorem advancePage_pageCount : (advancePage s).pageCount = s.pageCount := rfl
@[simp] theorem advancePage_lastBoundary : (advancePage s).lastBoundary = s.lastBoundary := rfl
@[simp] theorem advancePage_curAddr : (advancePage s).curAddr = s.curAddr + s.cfg.pageSize := rfl
@[simp] theorem advancePage_pageIdx : (advancePage s).pageIdx = s.pageIdx + 1 := rfl
@[simp] theorem advancePage_result : (advancePage s).result = s.result := rfl
@[simp] theorem advancePage_chOpen : (advancePage s).chOpen = s.chOpen := rfl
@[simp] theorem advancePage_image : (advancePage s).image = s.image := rfl
@[simp] theorem advancePage_rxCnt : (advancePage s).rxCnt = s.rxCnt := rfl
@[simp] theorem advancePage_txLog : (advancePage s).txLog = s.txLog := rfl

/-! ## Reading the image after an update that leaves it alone -/

/-- The image is read through CFG.FL_SIZE and IMAGE alone. -/
theorem imgRead_congr {s t : State} (hc : t.cfg = s.cfg) (hi : t.image = s.image) (a : Nat) :
    imgRead t a = imgRead s a := by
  simp [imgRead, hc, hi]

theorem imgBytes_congr {s t : State} (hc : t.cfg = s.cfg) (hi : t.image = s.image) (n : Nat) :
    ∀ a, imgBytes t a n = imgBytes s a n := by
  induction n with
  | zero => intro a; rfl
  | succ n ih => intro a; simp only [imgBytes, imgRead_congr hc hi, ih]

/-- The next answer depends on ANS and RXCNT alone. -/
theorem nextAnswer_congr {s t : State} (ha : t.ans = s.ans) (hr : t.rxCnt = s.rxCnt) :
    nextAnswer t = nextAnswer s := by
  simp [nextAnswer, answerAt, ha, hr]

end Sys2Proof.Machine
end

