-- ==== Sys2Proof/Laws/Decode.lean ====
section
/-! SUPPORT. What the parts of the record decoder can do, once: hex text, fields, checksum, dispatch. -/

namespace Sys2Proof.Machine

/-- A run of hex bytes, byte by byte (40_record_decoder.md R134). -/
theorem hexbytes_iff (l : Line) : ∀ (n p : Nat) (bs : List Byte), hexbytes l p n = some bs ↔
    bs.length = n ∧ ∀ i, i < n → hexbyte l (p + 2 * i) = bs[i]? := by
  intro n
  induction n with
  | zero =>
    intro p bs
    constructor
    · intro h; cases h; simp
    · rintro ⟨h, -⟩
      rw [List.length_eq_zero_iff] at h
      simp [hexbytes, h]
  | succ n ih =>
    intro p bs
    rw [hexbytes]
    constructor
    · intro h
      split at h
      · rename_i b bs' hb hbs
        cases h
        obtain ⟨h1, h2⟩ := (ih _ _).1 hbs
        refine ⟨by simp [h1], fun i hi => ?_⟩
        cases i with
        | zero => simpa using hb
        | succ i => rw [show p + 2 * (i + 1) = p + 2 + 2 * i by omega, h2 i (by omega)]; simp
      · cases h
    · rintro ⟨h1, h2⟩
      cases bs with
      | nil => simp at h1
      | cons b bs =>
        have hb : hexbyte l p = some b := by simpa using h2 0 (by omega)
        have hbs : hexbytes l (p + 2) n = some bs := (ih _ _).2 ⟨by simpa using h1, fun i hi => by
          have := h2 (i + 1) (by omega)
          rw [show p + 2 * (i + 1) = p + 2 + 2 * i by omega] at this
          simpa using this⟩
        rw [hb, hbs]

/-- `REC.addr = 256 * AH + AL` (20_memory.md R64). -/
theorem addrOf_toNat (ah al : Byte) : (addrOf ah al).toNat = 256 * ah.toNat + al.toNat := by
  have h := al.isLt
  show (ah ++ al).toNat = _
  rw [BitVec.toNat_append, ← Nat.shiftLeft_add_eq_or_of_lt h, Nat.shiftLeft_eq]
  omega

theorem addrOf_unique {a : BitVec 16} {ah al : Byte} (h : a.toNat = 256 * ah.toNat + al.toNat) :
    a = addrOf ah al := by
  apply BitVec.eq_of_toNat_eq
  rw [addrOf_toNat, h]

/-- The start marker and the fields are read exactly where 30_encoding.md R91 places them. -/
theorem parseFields_iff (l : Line) (r : Record) :
    (hasStartMarker l = true ∧ parseFields l = some r) ↔ LineFields l r := by
  unfold hasStartMarker parseFields
  constructor
  · rintro ⟨hm, h⟩
    split at h
    · rename_i L ah al tt h1 h3 h5 h7
      split at h
      · rename_i p cc hp hc
        cases h
        obtain ⟨hl, hp⟩ := (hexbytes_iff _ _ _ _).1 hp
        exact ⟨by simpa [startMarker] using hm, h1, ⟨ah, al, h3, h5, addrOf_toNat _ _⟩, h7, hl, hp, hc⟩
      · cases h
    · cases h
  · rintro ⟨hm, h1, ⟨ah, al, h3, h5, ha⟩, h7, hl, hp, hc⟩
    refine ⟨by simpa [startMarker] using hm, ?_⟩
    simp only [h1, h3, h5, h7]
    rw [(hexbytes_iff l _ 9 r.payload).2 ⟨hl, hp⟩, hc]
    simp [← addrOf_unique ha]

/-- The sum of bytes is taken modulo 256 (40_record_decoder.md R137). -/
theorem byteSum_toNat (bs : List Byte) : (byteSum bs).toNat = (bs.map BitVec.toNat).sum % 256 := by
  induction bs with
  | nil => rfl
  | cons b bs ih => simp [byteSum, ih]

/-- The computed checksum is `(256 - S) mod 256` (40_record_decoder.md R137). -/
theorem checksum_toNat (r : Record) : (checksum r).toNat = requiredChecksum r := by
  have h1 : (addrHigh r.addr).toNat = r.addr.toNat / 256 := by
    have := r.addr.isLt
    simp [addrHigh, BitVec.extractLsb'_toNat, Nat.shiftRight_eq_div_pow]
    omega
  have h2 : (addrLow r.addr).toNat = r.addr.toNat % 256 := by
    simp [addrLow, BitVec.extractLsb'_toNat]
  have hS : (byteSum (checkedBytes r)).toNat = (r.len.toNat + r.addr.toNat / 256 + r.addr.toNat % 256
      + r.rtype.toNat + (r.payload.map BitVec.toNat).sum) % 256 := by
    rw [byteSum_toNat]
    simp only [checkedBytes, List.map_cons, List.sum_cons, h1, h2]
    congr 1
    omega
  have := (byteSum (checkedBytes r)).isLt
  unfold checksum requiredChecksum twosComplement
  rw [← hS]
  simp [BitVec.toNat_add, BitVec.toNat_not]
  omega

/-- A record decodes exactly from a line with its fields and its checksum; the record is then well formed. -/
theorem decodeRecord_ok {l : Line} {r : Record} :
    decodeRecord l = .ok r ↔ LineFields l r ∧ checksum r = r.csum := by
  unfold decodeRecord
  constructor
  · intro h
    split at h
    · rename_i hm
      cases hp : parseFields l with
      | none => simp [hp] at h
      | some r' =>
        simp only [hp] at h
        split at h
        · rename_i hc
          cases h
          exact ⟨(parseFields_iff _ _).1 ⟨hm, hp⟩, hc⟩
        · cases h
    · cases h
  · rintro ⟨hf, hc⟩
    obtain ⟨hm, hp⟩ := (parseFields_iff _ _).2 hf
    simp [hm, hp, hc]

theorem decodeRecord_wellFormed {l : Line} {r : Record} (h : decodeRecord l = .ok r) : r.wellFormed = true := by
  obtain ⟨hf, hc⟩ := decodeRecord_ok.1 h
  simp [Record.wellFormed, Record.lengthOk, Record.checksumOk, hf.length, hc]

/-- A line decodes to the instruction its record's type selects. -/
theorem decode_line_ok {l : Line} {i : Instr} :
    decode .line l = .ok i ↔ ∃ r, decodeRecord l = .ok r ∧ i = dispatchRecord r := by
  show decodeLine l = .ok i ↔ _
  unfold decodeLine
  cases h : decodeRecord l with
  | error e => simp
  | ok r => simp [eq_comm]

theorem dispatchRecord_wellFormed {r : Record} (h : r.wellFormed = true) :
    (dispatchRecord r).wellFormed = true := by
  unfold dispatchRecord
  split
  · rename_i h'; simp [Instr.wellFormed, h, h']
  · split
    · rename_i h' h''; simp [Instr.wellFormed, h, h'']
    · rename_i h' h''; simp [Instr.wellFormed, h, h', h'']

/-- A decoded line is a well-formed instruction. -/
theorem decode_line_wellFormed {l : Line} {i : Instr} (h : decode .line l = .ok i) : i.wellFormed = true := by
  obtain ⟨r, hr, rfl⟩ := decode_line_ok.1 h
  exact dispatchRecord_wellFormed (decodeRecord_wellFormed hr)

end Sys2Proof.Machine
end

