-- ==== Sys2Proof/Laws/Memory.lean ====
section
/-! SUPPORT. The memory of the image: canonical form kept by every write, and read after write. -/

namespace Sys2Proof.Machine

theorem memWfFrom_cons {lo k : Nat} {c : Byte} {m : Memory} :
    memWfFrom lo ((k, c) :: m) = true ↔ lo ≤ k ∧ c ≠ unlistedByte ∧ memWfFrom (k + 1) m = true := by
  simp [memWfFrom, and_assoc]

theorem memWfFrom_mono {lo lo' : Nat} (h : lo' ≤ lo) {m : Memory} (hm : memWfFrom lo m = true) :
    memWfFrom lo' m = true := by
  cases m with
  | nil => rfl
  | cons c m =>
    obtain ⟨k, c⟩ := c
    rw [memWfFrom_cons] at hm ⊢
    exact ⟨le_trans h hm.1, hm.2⟩

/-- Below the lowest listed address every byte is unlisted. -/
theorem memRead_below {lo a : Nat} (h : a < lo) : ∀ {m : Memory}, memWfFrom lo m = true →
    memRead m a = unlistedByte := by
  intro m
  induction m generalizing lo with
  | nil => intro _; rfl
  | cons c m ih =>
    obtain ⟨k, c⟩ := c
    intro hm
    rw [memWfFrom_cons] at hm
    rw [memRead, if_neg (by omega)]
    exact ih (show a < k + 1 by omega) hm.2.2

/-- A write keeps the canonical form. -/
theorem memWrite_wfFrom {a : Nat} {b : Byte} : ∀ {m : Memory} {lo : Nat}, lo ≤ a → memWfFrom lo m = true →
    memWfFrom lo (memWrite m a b) = true := by
  intro m
  induction m with
  | nil =>
    intro lo h _
    by_cases hb : b = unlistedByte
    · simp [memWrite, hb, memWfFrom]
    · simp [memWrite, hb, memWfFrom, h]
  | cons c m ih =>
    obtain ⟨k, c⟩ := c
    intro lo h hm
    have hm' := memWfFrom_cons.1 hm
    simp only [memWrite]
    split
    · rename_i hak
      split
      · exact hm
      · rename_i hb
        rw [memWfFrom_cons]
        exact ⟨h, hb, memWfFrom_cons.2 ⟨hak, hm'.2⟩⟩
    · split
      · rename_i hnk hak
        split
        · exact memWfFrom_mono (by omega) hm'.2.2
        · rename_i hb
          rw [memWfFrom_cons]
          exact ⟨h, hb, by rw [hak]; exact hm'.2.2⟩
      · rename_i hnk hak
        rw [memWfFrom_cons]
        exact ⟨hm'.1, hm'.2.1, ih (by omega) hm'.2.2⟩

/-- A write keeps the canonical form of a memory. -/
theorem memWrite_wf {m : Memory} (a : Nat) (b : Byte) (h : m.wf = true) : (memWrite m a b).wf = true :=
  memWrite_wfFrom (Nat.zero_le a) h

/-- Every cell of a written memory is one of the old memory, or the cell written. -/
theorem memWrite_mem {a : Nat} {b : Byte} {c : Host.Cell} : ∀ {m : Memory}, c ∈ memWrite m a b →
    c ∈ m ∨ c.1 = a := by
  intro m
  induction m with
  | nil =>
    intro h
    simp only [memWrite] at h
    split at h
    · simp at h
    · simp only [List.mem_singleton] at h; right; rw [h]
  | cons d m ih =>
    obtain ⟨k, d⟩ := d
    intro h
    simp only [memWrite] at h
    split at h
    · split at h
      · exact .inl h
      · rcases List.mem_cons.1 h with h | h
        · right; rw [h]
        · exact .inl h
    · split at h
      · split at h
        · exact .inl (List.mem_cons_of_mem _ h)
        · rcases List.mem_cons.1 h with h | h
          · right; rw [h]
          · exact .inl (List.mem_cons_of_mem _ h)
      · rcases List.mem_cons.1 h with h | h
        · exact .inl (h ▸ List.mem_cons_self)
        · rcases ih h with h | h
          · exact .inl (List.mem_cons_of_mem _ h)
          · exact .inr h

/-- Read after write: the byte written at its address, the old byte everywhere else. -/
theorem memRead_memWrite (a : Nat) (b : Byte) (x : Nat) : ∀ (m : Memory) (lo : Nat), memWfFrom lo m = true →
    memRead (memWrite m a b) x = if x = a then b else memRead m x := by
  intro m
  induction m with
  | nil =>
    intro lo _
    simp only [memWrite]; split
    · rename_i h; simp [memRead, h]
    · simp [memRead]
  | cons c m ih =>
    obtain ⟨k, c⟩ := c
    intro lo hm
    have hm' := memWfFrom_cons.1 hm
    simp only [memWrite]
    split
    · rename_i hak
      have hrest : memRead ((k,c)::m) a = unlistedByte := memRead_below (lo := k) hak (memWfFrom_cons.2 ⟨le_refl _, hm'.2⟩)
      split
      · rename_i hb
        split
        · rename_i hxa; rw [hxa, hrest, hb]
        · rfl
      · by_cases hxa : x = a <;> simp [memRead, hxa]
    · split
      · rename_i hak; subst hak
        have hrest : memRead m a = unlistedByte := memRead_below (lo := a + 1) (by omega) hm'.2.2
        split
        · rename_i hb
          by_cases hxa : x = a
          · rw [if_pos hxa, hxa, hrest, hb]
          · simp [memRead, hxa]
        · by_cases hxa : x = a <;> simp [memRead, hxa]
      · rename_i h1 h2
        simp only [memRead]
        rw [ih _ hm'.2.2]
        by_cases hxk : x = k
        · simp [hxk]; intro h; omega
        · simp [hxk]

end Sys2Proof.Machine
end

