-- ==== Sys2Proof/Laws/Ops.lean ====
section
/-! SUPPORT. One lemma per shared operation that says once everything it can do; later proofs cite these instead of
unfolding the operation. -/

namespace Sys2Proof.Machine

/-! ## Guards -/

@[simp] theorem whenAt_pos {g : St} {s : State} {k : Out} (h : s.st = g) : whenAt g s k = k := if_pos h

@[simp] theorem whenAt_neg {g : St} {s : State} {k : Out} (h : s.st ≠ g) :
    whenAt g s k = .refused .guardNotMet := if_neg h

@[simp] theorem whenOpen_pos {s : State} {k : Out} (h : s.chOpen = true) : whenOpen s k = k := if_pos h

@[simp] theorem whenOpen_neg {s : State} {k : Out} (h : s.chOpen = false) :
    whenOpen s k = .fault .channelNotOpen := by simp [whenOpen, h]

/-- A guarded rule answers a next state only in the state it names. -/
theorem whenAt_next {g : St} {s t : State} {k : Out} (h : whenAt g s k = .next t) : s.st = g ∧ k = .next t := by
  by_cases hg : s.st = g
  · exact ⟨hg, by rwa [whenAt_pos hg] at h⟩
  · rw [whenAt_neg hg] at h; cases h

/-- A rule that uses the channel answers a next state only with the channel open. -/
theorem whenOpen_next {s t : State} {k : Out} (h : whenOpen s k = .next t) : s.chOpen = true ∧ k = .next t := by
  cases hc : s.chOpen with
  | true => exact ⟨rfl, by rwa [whenOpen_pos hc] at h⟩
  | false => rw [whenOpen_neg hc] at h; cases h

/-! ## The channel -/

/-- A frame sent: TXLOG grows by it and ST moves on. -/
theorem sendFrame_next {bytes : List Byte} {g : St} {s t : State} (h : sendFrame bytes g s = .next t) :
    s.chOpen = true ∧ t = goTo g (tx bytes s) := by
  obtain ⟨hc, h⟩ := whenOpen_next h
  exact ⟨hc, (Host.Outcome.next.inj h).symm⟩

/-- An expectation: one read, then either the rule's success or the abort with its error. -/
theorem expect_next {e : Byte} {err : RunError} {k : State → State} {s t : State} (h : expect e err k s = .next t) :
    s.chOpen = true ∧ ((nextAnswer s = .byte e ∧ t = k (countRead s)) ∨
      (nextAnswer s ≠ .byte e ∧ t = abort err (countRead s))) := by
  obtain ⟨hc, h⟩ := whenOpen_next h
  refine ⟨hc, ?_⟩
  split at h
  · exact .inl ⟨‹_›, (Host.Outcome.next.inj h).symm⟩
  · exact .inr ⟨‹_›, (Host.Outcome.next.inj h).symm⟩

/-! ## The image builder -/

/-- The state after bytes written at ascending addresses, with no test made. -/
def writeAll (t : Nat) : List Byte → State → State
  | [], s => s
  | b :: bs, s => writeAll (t + 1) bs { s with image := memWrite s.image t b, hwm := max s.hwm t }

/-- Writing changes IMAGE and HWM alone. -/
theorem writeAll_eq (bs : List Byte) : ∀ (t : Nat) (s : State),
    writeAll t bs s = { s with image := (writeAll t bs s).image, hwm := (writeAll t bs s).hwm } := by
  induction bs with
  | nil => intro t s; rfl
  | cons b bs ih => intro t s; rw [writeAll, ih]

@[simp] theorem writeAll_cfg (t : Nat) (bs : List Byte) (s : State) : (writeAll t bs s).cfg = s.cfg := by
  rw [writeAll_eq]
@[simp] theorem writeAll_lineIdx (t : Nat) (bs : List Byte) (s : State) :
    (writeAll t bs s).lineIdx = s.lineIdx := by rw [writeAll_eq]

@[simp] theorem writeAll_lines (t : Nat) (bs : List Byte) (s : State) :
    (writeAll t bs s).lines = s.lines := by rw [writeAll_eq]
@[simp] theorem writeAll_ans (t : Nat) (bs : List Byte) (s : State) :
    (writeAll t bs s).ans = s.ans := by rw [writeAll_eq]
@[simp] theorem writeAll_st (t : Nat) (bs : List Byte) (s : State) :
    (writeAll t bs s).st = s.st := by rw [writeAll_eq]
@[simp] theorem writeAll_recLatch (t : Nat) (bs : List Byte) (s : State) :
    (writeAll t bs s).recLatch = s.recLatch := by rw [writeAll_eq]
@[simp] theorem writeAll_goff (t : Nat) (bs : List Byte) (s : State) :
    (writeAll t bs s).goff = s.goff := by rw [writeAll_eq]
@[simp] theorem writeAll_pageCount (t : Nat) (bs : List Byte) (s : State) :
    (writeAll t bs s).pageCount = s.pageCount := by rw [writeAll_eq]
@[simp] theorem writeAll_lastBoundary (t : Nat) (bs : List Byte) (s : State) :
    (writeAll t bs s).lastBoundary = s.lastBoundary := by rw [writeAll_eq]
@[simp] theorem writeAll_curAddr (t : Nat) (bs : List Byte) (s : State) :
    (writeAll t bs s).curAddr = s.curAddr := by rw [writeAll_eq]
@[simp] theorem writeAll_pageIdx (t : Nat) (bs : List Byte) (s : State) :
    (writeAll t bs s).pageIdx = s.pageIdx := by rw [writeAll_eq]
@[simp] theorem writeAll_result (t : Nat) (bs : List Byte) (s : State) :
    (writeAll t bs s).result = s.result := by rw [writeAll_eq]
@[simp] theorem writeAll_chOpen (t : Nat) (bs : List Byte) (s : State) :
    (writeAll t bs s).chOpen = s.chOpen := by rw [writeAll_eq]
@[simp] theorem writeAll_rxCnt (t : Nat) (bs : List Byte) (s : State) :
    (writeAll t bs s).rxCnt = s.rxCnt := by rw [writeAll_eq]
@[simp] theorem writeAll_txLog (t : Nat) (bs : List Byte) (s : State) :
    (writeAll t bs s).txLog = s.txLog := by rw [writeAll_eq]

/-- HWM after a run of bytes (41_image_builder.md R166). -/
theorem writeAll_hwm (bs : List Byte) : ∀ (t : Nat) (s : State),
    (writeAll t bs s).hwm = watermark s.hwm t bs.length := by
  induction bs with
  | nil => intro t s; rfl
  | cons b bs ih =>
    intro t s
    rw [writeAll, ih]
    show watermark (max s.hwm t) (t + 1) bs.length = watermark s.hwm t (bs.length + 1)
    unfold watermark
    rw [if_neg (Nat.succ_ne_zero _), max_assoc]
    split
    · rename_i h; simp [h]
    · congr 1; omega

/-- Writing keeps the canonical form. -/
theorem writeAll_wf (bs : List Byte) : ∀ (t : Nat) (s : State), s.image.wf = true →
    (writeAll t bs s).image.wf = true := by
  induction bs with
  | nil => intro t s h; exact h
  | cons b bs ih => intro t s h; rw [writeAll]; exact ih _ _ (memWrite_wf _ _ h)

/-- The bytes of the image after a run of bytes. -/
theorem writeAll_memRead (bs : List Byte) : ∀ (t : Nat) (s : State), s.image.wf = true → ∀ x,
    memRead (writeAll t bs s).image x
      = if h : t ≤ x ∧ x - t < bs.length then bs[x - t]'h.2 else memRead s.image x := by
  induction bs with
  | nil => intro t s _ x; simp [writeAll]
  | cons b bs ih =>
    intro t s hw x
    rw [writeAll, ih _ _ (memWrite_wf _ _ hw)]
    simp only
    rw [memRead_memWrite t b x s.image 0 hw]
    by_cases h1 : t + 1 ≤ x ∧ x - (t + 1) < bs.length
    · rw [dif_pos h1, dif_pos (by simp; omega)]
      have : x - t = (x - (t + 1)) + 1 := by omega
      simp only [this, List.getElem_cons_succ]
    · rw [dif_neg h1]
      by_cases hx : x = t
      · subst hx; simp
      · rw [if_neg hx, dif_neg (by simp; omega)]

/-- Every cell of the image after a run of bytes is one of the old image, or lies at one of their addresses. -/
theorem writeAll_mem (bs : List Byte) : ∀ (t : Nat) (s : State) (c : Host.Cell), c ∈ (writeAll t bs s).image →
    c ∈ s.image ∨ (t ≤ c.1 ∧ c.1 < t + bs.length) := by
  induction bs with
  | nil => intro t s c h; exact .inl h
  | cons b bs ih =>
    intro t s c h
    rcases ih _ _ c h with h | h
    · rcases memWrite_mem h with h | h
      · exact .inl h
      · right; rw [h, List.length_cons]; omega
    · right; rw [List.length_cons]; omega

/-- The bytes written read back, and every other address reads as before. -/
theorem writeAll_stores {bs : List Byte} {t : Nat} {s u : State} (hw : s.image.wf = true)
    (hl : ∀ k, k < bs.length → t + k < s.cfg.flSize) (hc : u.cfg = s.cfg)
    (hi : u.image = (writeAll t bs s).image) : stores s u t bs := by
  intro x
  simp only [imgRead, hc, hi, writeAll_memRead bs t s hw x]
  by_cases h : t ≤ x ∧ x - t < bs.length
  · have := hl (x - t) h.2
    have hx : x < s.cfg.flSize := by
      have e : t + (x - t) = x := by omega
      rwa [e] at this
    rw [dif_pos h, dif_pos h, if_pos hx]
  · rw [dif_neg h, dif_neg h]

/-- A target address passes the tests exactly when it is legal (41_image_builder.md R163, R165). -/
theorem targetError_none {s : State} {t : Nat} : targetError s t = none ↔ legalTarget s.cfg t := by
  unfold targetError legalTarget outOfRange
  by_cases h1 : s.cfg.flSize ≤ t <;> by_cases h2 : t < s.cfg.blSize <;> cases s.cfg.strict <;>
    simp [h1, h2] <;> omega

/-- The test of a target address depends on the configuration and the line index alone. -/
theorem targetError_congr {s s' : State} (hc : s'.cfg = s.cfg) (hl : s'.lineIdx = s.lineIdx) (t : Nat) :
    targetError s' t = targetError s t := by
  simp [targetError, hc, hl]

/-- A byte with a legal target is written and counted. -/
theorem applyByte_ok {s : State} {t : Nat} (b : Byte) (h : targetError s t = none) :
    applyByte t b s = .ok { s with image := memWrite s.image t b, hwm := max s.hwm t } := by
  have hlt : t < s.cfg.flSize := by
    unfold targetError at h
    split at h
    · cases h
    · split at h
      · cases h
      · omega
  simp [applyByte, h, imgWrite, hlt]

/-- A byte with an illegal target is not written. -/
theorem applyByte_error {s : State} {t : Nat} {e : RunError} (b : Byte) (h : targetError s t = some e) :
    applyByte t b s = .error e := by
  simp [applyByte, h]

/-- Bytes that all have legal targets are all written (41_image_builder.md R161). -/
theorem applyBytes_all (bs : List Byte) : ∀ (t : Nat) (s : State),
    (∀ k, k < bs.length → targetError s (t + k) = none) → applyBytes t bs s = (writeAll t bs s, none) := by
  induction bs with
  | nil => intro t s _; rfl
  | cons b bs ih =>
    intro t s h
    have h0 : targetError s t = none := h 0 (by simp)
    rw [applyBytes, applyByte_ok b h0]
    refine ih (t + 1) _ fun k hk => ?_
    refine (targetError_congr (s := s) rfl rfl _).trans ?_
    rw [show t + 1 + k = t + (k + 1) by omega]
    exact h (k + 1) (by simpa using hk)

/-- The first byte with an illegal target stops the record: the bytes before it are written, no other is
(41_image_builder.md R161). -/
theorem applyBytes_stop (bs : List Byte) : ∀ (t : Nat) (s : State) (k : Nat) (e : RunError), k < bs.length →
    (∀ j, j < k → targetError s (t + j) = none) → targetError s (t + k) = some e →
    applyBytes t bs s = (writeAll t (bs.take k) s, some e) := by
  induction bs with
  | nil => intro t s k e hk; simp at hk
  | cons b bs ih =>
    intro t s k e hk hlt he
    cases k with
    | zero => rw [applyBytes, applyByte_error (t := t) b he]; rfl
    | succ k =>
      have h0 : targetError s t = none := hlt 0 (by omega)
      rw [applyBytes, applyByte_ok b h0]
      refine ih (t + 1) _ k e (by simpa using hk) (fun j hj => ?_) ?_
      · refine (targetError_congr (s := s) rfl rfl _).trans ?_
        rw [show t + 1 + j = t + (j + 1) by omega]
        exact hlt (j + 1) (by omega)
      · refine (targetError_congr (s := s) rfl rfl _).trans ?_
        rw [show t + 1 + k = t + (k + 1) by omega]
        exact he

/-- Everything `applyBytes` can do: all bytes written, or those before the first illegal target. -/
theorem applyBytes_cases (t : Nat) (bs : List Byte) (s : State) :
    ((∀ k, k < bs.length → targetError s (t + k) = none) ∧ applyBytes t bs s = (writeAll t bs s, none)) ∨
    (∃ k e, k < bs.length ∧ (∀ j, j < k → targetError s (t + j) = none) ∧ targetError s (t + k) = some e ∧
      applyBytes t bs s = (writeAll t (bs.take k) s, some e)) := by
  by_cases h : ∀ k, k < bs.length → targetError s (t + k) = none
  · exact .inl ⟨h, applyBytes_all bs t s h⟩
  · right
    have hex : ∃ k, k < bs.length ∧ targetError s (t + k) ≠ none := by
      by_contra hc
      exact h fun k hk => by
        by_contra hne
        exact hc ⟨k, hk, hne⟩
    obtain ⟨hk, hne⟩ := Nat.find_spec hex
    obtain ⟨e, he⟩ := Option.ne_none_iff_exists'.1 hne
    have hmin : ∀ j, j < Nat.find hex → targetError s (t + j) = none := fun j hj => by
      by_contra hne
      exact Nat.find_min hex hj ⟨by omega, hne⟩
    exact ⟨Nat.find hex, e, hk, hmin, he, applyBytes_stop bs t s _ e hk hmin he⟩

end Sys2Proof.Machine
end

