-- ==== Sys2Proof/Laws/PerInstr.lean ====
section
/-! SUPPORT. Families of lemmas with one lemma per instruction. `WordLength`: the item of each row has the length its
format gives it (30_encoding.md R90, R98 to R103, R105). -/

namespace Sys2Proof.Laws.WordLength

/-- The number of bytes of an instruction's item: a record line has `11 + 2 * REC.len` characters. -/
def expected (o : FrameOperands) : Instr → Nat
  | .recData r => 11 + 2 * r.len.toNat
  | .recEof r => 11 + 2 * r.len.toNat
  | .recSkip r => 11 + 2 * r.len.toNat
  | .txInit => o.initSeq.length
  | .txSof => 1
  | .txAddr => Machine.addrBytes
  | .txData => o.page.length
  | .txCrc => Machine.crcBytes
  | .txReboot => 1
  | .rxInitAck => 1
  | .rxAckSof => 1
  | .rxAckAddr => 1
  | .rxAckData => 1
  | .rxCrcAck => 1
  | .rxAckPage => 1

/-- The words of a well-formed instruction have the length of its format. -/
def Statement (i : Instr) : Prop :=
  i.wellFormed = true → ∀ o : FrameOperands, (encode o i).length = expected o i

theorem hexTexts_length (bs : List Byte) : (hexTexts bs).length = 2 * bs.length := by
  induction bs with
  | nil => rfl
  | cons b bs ih => simp [hexTexts, hexText, ih]; omega

theorem encodeRecord_length {r : Record} (h : r.wellFormed = true) :
    (encodeRecord r).length = 11 + 2 * r.len.toNat := by
  have hl : r.payload.length = r.len.toNat := by
    simp [Record.wellFormed, Record.lengthOk] at h
    exact h.1
  simp [encodeRecord, hexText, hexTexts_length, hl]
  omega

theorem recData (r : Record) : Statement (.recData r) := fun h _ =>
  encodeRecord_length (by simp [Instr.wellFormed] at h; exact h.1)

theorem recEof (r : Record) : Statement (.recEof r) := fun h _ =>
  encodeRecord_length (by simp [Instr.wellFormed] at h; exact h.1)

theorem recSkip (r : Record) : Statement (.recSkip r) := fun h _ =>
  encodeRecord_length (by simp [Instr.wellFormed] at h; exact h.1)

theorem txInit : Statement .txInit := fun _ _ => rfl
theorem txSof : Statement .txSof := fun _ _ => rfl
theorem txAddr : Statement .txAddr := fun _ _ => rfl
theorem txData : Statement .txData := fun _ _ => rfl
theorem txCrc : Statement .txCrc := fun _ _ => rfl
theorem txReboot : Statement .txReboot := fun _ _ => rfl
theorem rxInitAck : Statement .rxInitAck := fun _ _ => rfl
theorem rxAckSof : Statement .rxAckSof := fun _ _ => rfl
theorem rxAckAddr : Statement .rxAckAddr := fun _ _ => rfl
theorem rxAckData : Statement .rxAckData := fun _ _ => rfl
theorem rxCrcAck : Statement .rxCrcAck := fun _ _ => rfl
theorem rxAckPage : Statement .rxAckPage := fun _ _ => rfl

end Sys2Proof.Laws.WordLength
end

