-- ==== Sys2Proof/Laws/Step.lean ====
section
/-! SUPPORT. What a step can do, once: from which state it fires which rule. -/

namespace Sys2Proof.Machine

/-- Everything a step that answers a next state can do, state by state (10_state.md R30, 43_upload_protocol.md
R226). -/
theorem step_cases {s t : State} (h : step s = .next t) :
    (s.st = .sIdle ∧ configBad s.cfg = true ∧ t = abort .configError s) ∨
    (s.st = .sIdle ∧ configBad s.cfg = false ∧ t = goTo .sDecode s) ∨
    (s.st = .sDecode ∧ s.lines.length ≤ s.lineIdx ∧ t = goTo .sPlan s) ∨
    (s.st = .sDecode ∧ ∃ l e, s.lines[s.lineIdx]? = some l ∧ decode .line l = .error e ∧
      t = abort (lineError s.lineIdx e) s) ∨
    (s.st = .sDecode ∧ ∃ l i, s.lines[s.lineIdx]? = some l ∧ decode .line l = .ok i ∧ exec i s = .next t) ∨
    (s.st = .sPlan ∧ s.cfg.pageSize ≠ 0 ∧
      t = { s with
        lastBoundary := pageCeil s.hwm s.cfg.pageSize * s.cfg.pageSize
        pageCount := (pageCeil s.hwm s.cfg.pageSize : Int) - (s.cfg.blSize / s.cfg.pageSize : Nat)
        curAddr := firstPage s.cfg
        st := .sOpen }) ∨
    (s.st = .sOpen ∧ t = { s with chOpen := true, st := .sInitTx }) ∨
    (s.st = .sPageTest ∧ t = goTo (if pageDue s then .sSofTx else .sRebootTx) s) ∨
    (∃ i n, i.slot n ≠ .line ∧ s.st = guardOf i ∧ exec i s = .next t) := by
  unfold step at h
  cases hst : s.st <;> simp only [fetch, hst] at h
  case sIdle =>
    obtain ⟨-, h⟩ := whenAt_next h
    cases hb : configBad s.cfg <;> simp only [hb] at h <;> cases h
    · exact .inr (.inl ⟨rfl, rfl, rfl⟩)
    · exact .inl ⟨rfl, rfl, rfl⟩
  case sDecode =>
    unfold fetchLine at h
    cases hl : s.lines[s.lineIdx]? with
    | none =>
      simp only [hl] at h
      obtain ⟨-, h⟩ := whenAt_next h
      rw [if_pos (by simpa using hl)] at h
      cases h
      exact .inr (.inr (.inl ⟨rfl, by simpa using hl, rfl⟩))
    | some l =>
      simp only [hl] at h
      cases hd : decode .line l with
      | ok i => simp only [hd] at h; exact .inr (.inr (.inr (.inr (.inl ⟨rfl, l, i, rfl, hd, h⟩))))
      | error e =>
        simp only [hd] at h
        obtain ⟨-, h⟩ := whenAt_next h
        cases h
        exact .inr (.inr (.inr (.inl ⟨rfl, l, e, rfl, hd, rfl⟩)))
  case sPlan =>
    obtain ⟨-, h⟩ := whenAt_next h
    by_cases hp : s.cfg.pageSize = 0
    · simp [hp] at h
    · rw [if_neg hp] at h
      cases h
      exact .inr (.inr (.inr (.inr (.inr (.inl ⟨rfl, hp, rfl⟩)))))
  case sOpen =>
    obtain ⟨-, h⟩ := whenAt_next h
    cases h
    exact .inr (.inr (.inr (.inr (.inr (.inr (.inl ⟨rfl, rfl⟩))))))
  case sPageTest =>
    obtain ⟨-, h⟩ := whenAt_next h
    cases h
    exact .inr (.inr (.inr (.inr (.inr (.inr (.inr (.inl ⟨rfl, rfl⟩)))))))
  case sDone => cases h
  case sAborted => cases h
  all_goals
    exact .inr (.inr (.inr (.inr (.inr (.inr (.inr (.inr ⟨_, 0, by decide, rfl, h⟩)))))))

/-- Everything REC.DATA can do: the record applied whole, or aborted at its first illegal target. -/
theorem execRecData_cases {s t : State} {r : Record} (h : execRecData r s = .next t) :
    s.st = .sDecode ∧
    (((∀ k, k < r.payload.length → targetError s (targetBase s r + k) = none) ∧
        t = nextLine (writeAll (targetBase s r) r.payload (latchRecord r s))) ∨
      (∃ k e, k < r.payload.length ∧ (∀ j, j < k → targetError s (targetBase s r + j) = none) ∧
        targetError s (targetBase s r + k) = some e ∧
        t = abort e (writeAll (targetBase s r) (r.payload.take k) (latchRecord r s)))) := by
  obtain ⟨hs, h⟩ := whenAt_next h
  refine ⟨hs, ?_⟩
  rcases applyBytes_cases (targetBase s r) r.payload (latchRecord r s) with ⟨ha, he⟩ | ⟨k, e, hk, hlt, hte, he⟩
  · rw [applyRecord, show targetBase (latchRecord r s) r = targetBase s r from rfl, he] at h
    exact .inl ⟨ha, (Host.Outcome.next.inj h).symm⟩
  · rw [applyRecord, show targetBase (latchRecord r s) r = targetBase s r from rfl, he] at h
    exact .inr ⟨k, e, hk, hlt, hte, (Host.Outcome.next.inj h).symm⟩

/-- The five replies that lead on to another send or reply, with the state each is expected in, the state it leads to
and the error any other answer raises (43_upload_protocol.md R226). -/
def replyTable : List (St × St × RunError) :=
  [(.sInitAck, .sPageTest, .initFailed), (.sSofAck, .sAddrTx, .noAck .sof), (.sAddrAck, .sDataTx, .noAck .addr),
    (.sDataAck, .sCrcTx, .noAck .data), (.sCrcAck, .sPageAck, .noAck .checksum)]

/-- The moves of the block: every state a step can lead to, with what held before it. -/
inductive Move (s : State) : State → Prop where
  | configError (hs : s.st = .sIdle) (hb : configBad s.cfg = true) : Move s (abort .configError s)
  | configOk (hs : s.st = .sIdle) (hb : configBad s.cfg = false) : Move s (goTo .sDecode s)
  | endOfInput (hs : s.st = .sDecode) (hl : s.lines.length ≤ s.lineIdx) : Move s (goTo .sPlan s)
  | badLine (hs : s.st = .sDecode) (e : RunError) (he : raisedIn e = .sDecode) : Move s (abort e s)
  | data (hs : s.st = .sDecode) (r : Record) (hr : r.wellFormed = true)
      (hl : ∀ k, k < r.payload.length → targetError s (targetBase s r + k) = none) :
      Move s (nextLine (writeAll (targetBase s r) r.payload (latchRecord r s)))
  | dataAbort (hs : s.st = .sDecode) (r : Record) (hr : r.wellFormed = true) (k : Nat) (e : RunError)
      (hk : k < r.payload.length) (hl : ∀ j, j < k → targetError s (targetBase s r + j) = none)
      (hte : targetError s (targetBase s r + k) = some e) (he : raisedIn e = .sDecode) :
      Move s (abort e (writeAll (targetBase s r) (r.payload.take k) (latchRecord r s)))
  | eof (hs : s.st = .sDecode) (r : Record) (hr : r.wellFormed = true) : Move s (goTo .sPlan (latchRecord r s))
  | skip (hs : s.st = .sDecode) (r : Record) (hr : r.wellFormed = true) : Move s (nextLine (latchRecord r s))
  | plan (hs : s.st = .sPlan) (hp : s.cfg.pageSize ≠ 0) :
      Move s { s with
        lastBoundary := pageCeil s.hwm s.cfg.pageSize * s.cfg.pageSize
        pageCount := (pageCeil s.hwm s.cfg.pageSize : Int) - (s.cfg.blSize / s.cfg.pageSize : Nat)
        curAddr := firstPage s.cfg
        st := .sOpen }
  | acquire (hs : s.st = .sOpen) : Move s { s with chOpen := true, st := .sInitTx }
  | pageDue (hs : s.st = .sPageTest) (hd : s.curAddr < s.lastBoundary) : Move s (goTo .sSofTx s)
  | pagesDone (hs : s.st = .sPageTest) (hd : s.lastBoundary ≤ s.curAddr) : Move s (goTo .sRebootTx s)
  | initNone (hs : s.st = .sInitTx) (hi : s.cfg.initSeq = none) : Move s (goTo .sPageTest s)
  | initSome (hc : s.chOpen = true) (hs : s.st = .sInitTx) (seq : List Byte) (hi : s.cfg.initSeq = some seq) :
      Move s (goTo .sInitAck (tx seq s))
  | sof (hc : s.chOpen = true) (hs : s.st = .sSofTx) : Move s (goTo .sSofAck (tx [cmdSof] s))
  | addr (hc : s.chOpen = true) (hs : s.st = .sAddrTx) :
      Move s (goTo .sAddrAck (tx (le32 (BitVec.ofNat 32 s.curAddr)) s))
  | page (hc : s.chOpen = true) (hs : s.st = .sDataTx) : Move s (goTo .sDataAck (tx (pageBytes s) s))
  | crc (hc : s.chOpen = true) (hs : s.st = .sCrcTx) :
      Move s (goTo .sCrcAck (tx (le32 (pageCrc s.cfg.crc (pageBytes s))) s))
  | reboot (hc : s.chOpen = true) (hs : s.st = .sRebootTx) :
      Move s { tx [cmdReboot] s with chOpen := false, result := .success, st := .sDone }
  | reply (hc : s.chOpen = true) (g : St) (e : RunError) (hm : (s.st, g, e) ∈ replyTable) :
      Move s (goTo g (countRead s))
  | replyWrong (hc : s.chOpen = true) (g : St) (e : RunError) (hm : (s.st, g, e) ∈ replyTable) :
      Move s (abort e (countRead s))
  | pageAck (hc : s.chOpen = true) (hs : s.st = .sPageAck) : Move s (goTo .sPageTest (advancePage (countRead s)))
  | pageAckWrong (hc : s.chOpen = true) (hs : s.st = .sPageAck) : Move s (abort .flashFailed (countRead s))

/-- A line that does not decode raises an error of S_DECODE (60_exceptions.md R302). -/
theorem raisedIn_lineError (n : Nat) (e : DecodeError) : raisedIn (lineError n e) = .sDecode := by
  cases e <;> rfl

/-- An illegal target raises an error of S_DECODE (60_exceptions.md R302). -/
theorem raisedIn_targetError {s : State} {a : Nat} {e : RunError} (h : targetError s a = some e) :
    raisedIn e = .sDecode := by
  unfold targetError at h
  split at h
  · cases h; rfl
  · split at h <;> cases h; rfl

/-- `Expect` in one of the five states of the table makes one of the moves (43_upload_protocol.md R203). -/
theorem reply_move {s t : State} {g g' : St} {b : Byte} {e : RunError} (hm : (g, g', e) ∈ replyTable)
    (h : whenAt g s (expect b e (goTo g') s) = .next t) : Move s t := by
  obtain ⟨hs, hx⟩ := whenAt_next h
  subst hs
  obtain ⟨hc, ⟨-, rfl⟩ | ⟨-, rfl⟩⟩ := expect_next hx
  · exact .reply hc g' e hm
  · exact .replyWrong hc g' e hm

/-- A step that answers a next state makes one of the moves. -/
theorem step_move {s t : State} (h : step s = .next t) : Move s t := by
  rcases step_cases h with ⟨hs, hb, rfl⟩ | ⟨hs, hb, rfl⟩ | ⟨hs, hl, rfl⟩ | ⟨hs, l, e, -, -, rfl⟩ |
    ⟨hs, l, i, -, hd, hx⟩ | ⟨hs, hp, rfl⟩ | ⟨hs, rfl⟩ | ⟨hs, rfl⟩ | ⟨i, n, hn, hg, hx⟩
  · exact .configError hs hb
  · exact .configOk hs hb
  · exact .endOfInput hs hl
  · exact .badLine hs _ (raisedIn_lineError _ e)
  · obtain ⟨r, hr, rfl⟩ := decode_line_ok.1 hd
    have hw := decodeRecord_wellFormed hr
    unfold dispatchRecord at hx
    split at hx
    · obtain ⟨-, ⟨hl, rfl⟩ | ⟨k, e, hk, hl, he, rfl⟩⟩ := execRecData_cases hx
      · exact .data hs r hw hl
      · exact .dataAbort hs r hw k e hk hl he (raisedIn_targetError he)
    · split at hx
      · obtain ⟨-, hx⟩ := whenAt_next hx
        cases hx
        exact .eof hs r hw
      · obtain ⟨-, hx⟩ := whenAt_next hx
        cases hx
        exact .skip hs r hw
  · exact .plan hs hp
  · exact .acquire hs
  · unfold Machine.pageDue
    by_cases hd : s.curAddr < s.lastBoundary
    · simpa [hd] using Move.pageDue hs hd
    · simpa [hd] using Move.pagesDone hs (Nat.le_of_not_lt hd)
  · cases i with
    | recData r => exact absurd rfl hn
    | recEof r => exact absurd rfl hn
    | recSkip r => exact absurd rfl hn
    | txInit =>
      obtain ⟨hs, hx⟩ := whenAt_next hx
      split at hx
      · rename_i h0
        cases hx
        exact .initNone hs h0
      · rename_i seq h0
        obtain ⟨hc, rfl⟩ := sendFrame_next hx
        rw [show frameOf s .txInit = seq by simp [frameOf, encode, frameOperands, h0]]
        exact .initSome hc hs seq h0
    | txSof => obtain ⟨hs, hx⟩ := whenAt_next hx; obtain ⟨hc, rfl⟩ := sendFrame_next hx; exact .sof hc hs
    | txAddr => obtain ⟨hs, hx⟩ := whenAt_next hx; obtain ⟨hc, rfl⟩ := sendFrame_next hx; exact .addr hc hs
    | txData => obtain ⟨hs, hx⟩ := whenAt_next hx; obtain ⟨hc, rfl⟩ := sendFrame_next hx; exact .page hc hs
    | txCrc => obtain ⟨hs, hx⟩ := whenAt_next hx; obtain ⟨hc, rfl⟩ := sendFrame_next hx; exact .crc hc hs
    | txReboot =>
      obtain ⟨hs, hx⟩ := whenAt_next hx
      obtain ⟨hc, hx⟩ := whenOpen_next hx
      cases hx
      exact .reboot hc hs
    | rxAckPage =>
      obtain ⟨hs, hx⟩ := whenAt_next hx
      obtain ⟨hc, ⟨-, rfl⟩ | ⟨-, rfl⟩⟩ := expect_next hx
      · exact .pageAck hc hs
      · exact .pageAckWrong hc hs
    | rxInitAck => exact reply_move (by decide) hx
    | rxAckSof => exact reply_move (by decide) hx
    | rxAckAddr => exact reply_move (by decide) hx
    | rxAckData => exact reply_move (by decide) hx
    | rxCrcAck => exact reply_move (by decide) hx

end Sys2Proof.Machine
end

