-- ==== Sys2Proof/Laws/Run.lean ====
section
/-! SUPPORT. What a run of several steps can do, once. -/

namespace Sys2Proof.Machine

/-- A run of one step more begins with that step. -/
theorem core_run_succ {M : Host.Core} {k : Nat} {s t : M.State} (h : M.step s = .next t) :
    M.run (k + 1) s = M.run k t := by
  show (match M.step s with
    | .next s' => M.run k s'
    | .fault r => .fault r
    | .refused r => .refused r) = _
  rw [h]

/-- A run of one step more that answers a next state has a first step that does. -/
theorem core_run_inv {M : Host.Core} {k : Nat} {s t : M.State} (h : M.run (k + 1) s = .next t) :
    ∃ u, M.step s = .next u ∧ M.run k u = .next t := by
  have h : (match M.step s with
    | .next s' => M.run k s'
    | .fault r => .fault r
    | .refused r => .refused r) = .next t := h
  split at h
  · rename_i u hu
    exact ⟨u, hu, h⟩
  · cases h
  · cases h

/-- `k` steps of the block. -/
abbrev steps (k : Nat) (s : State) : Out := Host.Core.run Sys2Proof.core k s

theorem steps_succ {k : Nat} {s t : State} (h : step s = .next t) : steps (k + 1) s = steps k t :=
  core_run_succ (M := Sys2Proof.core) h

theorem steps_inv {k : Nat} {s t : State} (h : steps (k + 1) s = .next t) :
    ∃ u, step s = .next u ∧ steps k u = .next t :=
  core_run_inv (M := Sys2Proof.core) h

theorem steps_zero {s t : State} (h : steps 0 s = .next t) : s = t := Host.Outcome.next.inj h

theorem steps_one {s t : State} (h : step s = .next t) : steps 1 s = .next t := steps_succ h

/-- Runs are put one after the other. -/
theorem steps_add {a b : Nat} {s t : State} (h : steps a s = .next t) : steps (a + b) s = steps b t := by
  induction a generalizing s with
  | zero => rw [steps_zero h, Nat.zero_add]
  | succ a ih =>
    obtain ⟨u, hu, h⟩ := steps_inv h
    rw [Nat.add_right_comm, steps_succ hu, ih h]

/-- What every step keeps, every run keeps. -/
theorem steps_keep {P : State → Prop} (hP : ∀ s t, P s → step s = .next t → P t) {k : Nat} {s t : State}
    (hs : P s) (h : steps k s = .next t) : P t := by
  induction k generalizing s with
  | zero => exact steps_zero h ▸ hs
  | succ k ih =>
    obtain ⟨u, hu, h⟩ := steps_inv h
    exact ih (hP s u hs hu) h

end Sys2Proof.Machine
end

