-- ==== Sys2Proof/Tests/Slice0.lean ====
section
/-! SUPPORT. Tests on small fixed values, their expected results taken from spec/95_test_vectors.md and from the
encodings of spec/30_encoding.md; a smoke test of every well-formedness check; and for every obligation with
hypotheses a concrete state and operands that meet them. -/

namespace Sys2Proof.Tests

open Sys2Proof Sys2Proof.Machine

/-! ## Helpers -/

/-- The state an outcome goes on in. -/
def nextOf : Out → Option State
  | .next s => some s
  | .fault _ => none
  | .refused _ => none

/-- The bytes of a decimal list. -/
def bytes (l : List Nat) : List Byte := l.map (BitVec.ofNat 8)

/-- The configuration of 95_test_vectors.md section 3. -/
def cfg : Cfg := ⟨0x10, 0x40, 8, true, none, .isoHdlc⟩

/-- A state of the decode phase over some lines. -/
def decoding (c : Cfg) (lines : List Line) : State := { State.start c lines [] with st := .sDecode }

/-- A state of the upload, the channel open, with some answers to come. -/
def uploading (st : St) (ans : List Answer) : State :=
  { State.start cfg [] ans with st := st, chOpen := true, lastBoundary := 0x18, curAddr := 0x10 }

/-- H1, `:00000001FF`. -/
def lineH1 : Line := [0x3A, 0x30, 0x30, 0x30, 0x30, 0x30, 0x30, 0x30, 0x31, 0x46, 0x46]

/-- H2, `:02040000AA55FB`. -/
def lineH2 : Line := [0x3A, 0x30, 0x32, 0x30, 0x34, 0x30, 0x30, 0x30, 0x30, 0x41, 0x41, 0x35, 0x35, 0x46, 0x42]

/-- H6, `:020000021000EC`. -/
def lineH6 : Line := [0x3A, 0x30, 0x32, 0x30, 0x30, 0x30, 0x30, 0x30, 0x32, 0x31, 0x30, 0x30, 0x30, 0x45, 0x43]

/-- H25, `:02040000AA55FC`. -/
def lineH25 : Line := [0x3A, 0x30, 0x32, 0x30, 0x34, 0x30, 0x30, 0x30, 0x30, 0x41, 0x41, 0x35, 0x35, 0x46, 0x43]

/-- H17, `00000001FF`. -/
def lineH17 : Line := [0x30, 0x30, 0x30, 0x30, 0x30, 0x30, 0x30, 0x31, 0x46, 0x46]

/-- The record of H1. -/
def recH1 : Record := ⟨0x00, 0x0000, 0x01, [], 0xFF⟩

/-- The record of H2. -/
def recH2 : Record := ⟨0x02, 0x0400, 0x00, [0xAA, 0x55], 0xFB⟩

/-- The record of H6. -/
def recH6 : Record := ⟨0x02, 0x0000, 0x02, [0x10, 0x00], 0xEC⟩

/-- The record of M1, `:01001000AA45`. -/
def recM1 : Record := ⟨0x01, 0x0010, 0x00, [0xAA], 0x45⟩

/-- The record of M4, `:01003F00AA16`, whose byte goes to the last address of the flash. -/
def recM4 : Record := ⟨0x01, 0x003F, 0x00, [0xAA], 0x16⟩

/-- The record of M5 and M6, `:04003E0001020304B4`. -/
def recM5 : Record := ⟨0x04, 0x003E, 0x00, [1, 2, 3, 4], 0xB4⟩

/-- The record of M7, `:04000E0001020304E4`. -/
def recM7 : Record := ⟨0x04, 0x000E, 0x00, [1, 2, 3, 4], 0xE4⟩

/-! ## Well-formedness: an ill-formed term for each check -/

theorem test_wf_accepts_h2 : (Instr.recData recH2).wellFormed = true := by decide
theorem test_wf_refuses_wrong_length : ({ recH2 with len := 3, csum := 0xFA } : Record).wellFormed = false := by decide
theorem test_wf_refuses_wrong_checksum : ({ recH2 with csum := 0xFC } : Record).wellFormed = false := by decide
theorem test_wf_refuses_data_of_type_one : (Instr.recData recH1).wellFormed = false := by decide
theorem test_wf_refuses_eof_of_type_zero : (Instr.recEof recH2).wellFormed = false := by decide
theorem test_wf_refuses_skip_of_type_zero : (Instr.recSkip recH2).wellFormed = false := by decide
theorem test_wf_refuses_skip_of_type_one : (Instr.recSkip recH1).wellFormed = false := by decide

/-! ## Decoding: a word of every constructor, written out from its encoding -/

theorem test_decode_recData : decode .line lineH2 = .ok (.recData recH2) := by decide
theorem test_decode_recEof : decode .line lineH1 = .ok (.recEof recH1) := by decide
theorem test_decode_recSkip : decode .line lineH6 = .ok (.recSkip recH6) := by decide
theorem test_decode_txInit : decode .initFrame [0x12, 0x34] = .ok .txInit := by decide
theorem test_decode_txSof : decode .sofFrame [0b10100000] = .ok .txSof := by decide
theorem test_decode_txAddr : decode .addrFrame [0x00, 0x04, 0x00, 0x00] = .ok .txAddr := by decide
theorem test_decode_txData : decode (.dataFrame 8) (bytes [0, 5, 0, 0, 0, 0, 0, 0]) = .ok .txData := by decide
theorem test_decode_txCrc : decode .crcFrame [0x90, 0x9D, 0x06, 0x32] = .ok .txCrc := by decide
theorem test_decode_txReboot : decode .rebootFrame [0b10100010] = .ok .txReboot := by decide
theorem test_decode_rxInitAck : decode .initReply [0b00000001] = .ok .rxInitAck := by decide
theorem test_decode_rxAckSof : decode .sofReply [0b01010101] = .ok .rxAckSof := by decide
theorem test_decode_rxAckAddr : decode .addrReply [0b01010101] = .ok .rxAckAddr := by decide
theorem test_decode_rxAckData : decode .dataReply [0b01010101] = .ok .rxAckData := by decide
theorem test_decode_rxCrcAck : decode .crcReply [0b01110111] = .ok .rxCrcAck := by decide
theorem test_decode_rxAckPage : decode .pageReply [0b01010101] = .ok .rxAckPage := by decide

/-- H17, H25 and the wrong reply of R107. -/
theorem test_decode_rejects_by_name :
    decode .line lineH17 = .error .malformedLine ∧ decode .line lineH25 = .error (.checksumMismatch 0xFB 0xFC) ∧
    decode .crcReply [0x55] = .error .wrongReply ∧ decode .sofFrame [0xA1] = .error .notTheFrame := by decide

/-- H16: excess characters are ignored. -/
theorem test_decode_ignores_excess :
    decode .line (lineH1 ++ [0x6A, 0x75, 0x6E, 0x6B]) = .ok (.recEof recH1) := by decide

/-- The words of spec/opcode_table.json with fixed bits that belong to one row. -/
theorem test_table_words :
    decodeTableWord 8 0xA0 = some .txSof ∧ decodeTableWord 8 0xA2 = some .txReboot ∧
    decodeTableWord 8 0x77 = some .rxCrcAck ∧ decodeTableWord 8 0x55 = some .rxAckSof ∧
    decodeTableWord 8 0x00 = some (.recData ⟨0, 0, 0x00, [], 0x00⟩) ∧
    decodeTableWord 8 0x01 = some (.recEof recH1) := by decide

/-- `step` runs the placed word as the first instruction after reset: TX.SOF sends 0xA0 (R210). -/
theorem test_withFetchWord_runs_sof :
    (nextOf (step (State.reset.withFetchWord 8 0xA0))).map (fun s => (s.st, s.txLog)) = some (.sSofAck, [0xA0]) := by
  decide

/-- The same for a record line: the word of REC.EOF ends decoding (R142). -/
theorem test_withFetchWord_runs_eof :
    (nextOf (step (State.reset.withFetchWord 8 0x01))).map (fun s => (s.st, s.recLatch)) = some (.sPlan, recH1) := by
  decide

/-! ## One step of each instruction -/

/-- M5: two writes, then RangeViolation at 0x40. -/
theorem test_recData_m5 : (nextOf (exec (.recData recM5) (decoding cfg [[]]))).map (fun s => (s.image, s.hwm, s.result))
    = some ([(0x3E, 1), (0x3F, 2)], 0x3F, .fail (.rangeViolation 0x40 0)) := by decide

/-- M6: the same writes, then Panic(CapacityViolation). -/
theorem test_recData_m6 :
    (nextOf (exec (.recData recM5) (decoding { cfg with strict := false } [[]]))).map
      (fun s => (s.image, s.hwm, s.result))
    = some ([(0x3E, 1), (0x3F, 2)], 0x3F, .fail (.capacityPanic 0x40 0)) := by decide

/-- R142, R271. -/
theorem test_recEof_goes_to_plan :
    (nextOf (exec (.recEof recH1) (decoding cfg [lineH1]))).map (fun s => (s.st, s.lineIdx)) = some (.sPlan, 0) := by
  decide

/-- H6: no effect but the next line. -/
theorem test_recSkip_advances :
    (nextOf (exec (.recSkip recH6) (decoding cfg [lineH6]))).map (fun s => (s.st, s.lineIdx, s.image))
      = some (.sDecode, 1, []) := by decide

/-- U7: the init bytes `12 34`. -/
theorem test_txInit_sends :
    (nextOf (exec .txInit { uploading .sInitTx [] with cfg := { cfg with initSeq := some [0x12, 0x34] } })).map
      (fun s => (s.st, s.txLog)) = some (.sInitAck, [0x12, 0x34]) := by decide

/-- R205: nothing is sent with CFG.INIT = None. -/
theorem test_txInit_none :
    (nextOf (exec .txInit (uploading .sInitTx []))).map (fun s => (s.st, s.txLog)) = some (.sPageTest, []) := by
  decide

/-- S4: page address 0x400 goes out as `00 04 00 00`. -/
theorem test_txAddr_s4 :
    (nextOf (exec .txAddr { uploading .sAddrTx [] with curAddr := 0x400 })).map State.txLog
      = some [0x00, 0x04, 0x00, 0x00] := by decide

/-- Q6: the page at 0x10 with IMAGE[0x11] = 05. -/
theorem test_txData_q6 :
    (nextOf (exec .txData { uploading .sDataTx [] with image := [(0x11, 0x05)] })).map State.txLog
      = some (bytes [0, 5, 0, 0, 0, 0, 0, 0]) := by decide

/-- Q6: the CRC bytes of that page, `CE F0 1A 37`. -/
theorem test_txCrc_q6 :
    (nextOf (exec .txCrc { uploading .sCrcTx [] with image := [(0x11, 0x05)] })).map State.txLog
      = some [0xCE, 0xF0, 0x1A, 0x37] := by decide +kernel

/-- R224. -/
theorem test_txReboot_ends :
    (nextOf (exec .txReboot (uploading .sRebootTx []))).map (fun s => (s.st, s.result, s.chOpen, s.txLog))
      = some (.sDone, .success, false, [0xA2]) := by decide

/-- U8: the reply 0x55 to the init bytes is InitFailed. -/
theorem test_rxInitAck_u8 :
    (nextOf (exec .rxInitAck (uploading .sInitAck [.byte 0x55]))).map (fun s => (s.result, s.chOpen, s.rxCnt))
      = some (.fail .initFailed, false, 1) := by decide

/-- U2b: a timeout at the SOF step. -/
theorem test_rxAckSof_u2b :
    (nextOf (exec .rxAckSof (uploading .sSofAck [.timeout]))).map State.result = some (.fail (.noAck .sof)) := by
  decide

/-- U3: 0x77 is wrong at the ADDR step. -/
theorem test_rxAckAddr_u3 :
    (nextOf (exec .rxAckAddr (uploading .sAddrAck [.byte 0x77]))).map State.result = some (.fail (.noAck .addr)) := by
  decide

/-- U4: a timeout at the DATA step. -/
theorem test_rxAckData_u4 :
    (nextOf (exec .rxAckData (uploading .sDataAck [.timeout]))).map State.result = some (.fail (.noAck .data)) := by
  decide

/-- U5: 0x55 is wrong at the CRC step. -/
theorem test_rxCrcAck_u5 :
    (nextOf (exec .rxCrcAck (uploading .sCrcAck [.byte 0x55]))).map State.result
      = some (.fail (.noAck .checksum)) := by decide

/-- U1: the page advance. -/
theorem test_rxAckPage_u1 :
    (nextOf (exec .rxAckPage (uploading .sPageAck [.byte 0x55]))).map (fun s => (s.st, s.curAddr, s.pageIdx))
      = some (.sPageTest, 0x18, 1) := by decide

/-- U6: FlashFailed leaves CUR_ADDR and PAGE_IDX. -/
theorem test_rxAckPage_u6 :
    (nextOf (exec .rxAckPage (uploading .sPageAck [.byte 0x00]))).map (fun s => (s.result, s.curAddr, s.pageIdx))
      = some (.fail .flashFailed, 0x10, 0) := by decide

/-! ## The plan, the checksum of a page, the exit codes -/

/-- P9 and P20. -/
theorem test_plan_vectors :
    pageCeil 0x405 64 * 64 = 0x440 ∧ plannedPages ⟨0x410, 0x4000, 64, true, none, .isoHdlc⟩ 0x405 = [0x400] ∧
    plannedPages ⟨0x1000, 0x4000, 100, true, none, .isoHdlc⟩ 0x1234
      = [0xFA0, 0x1004, 0x1068, 0x10CC, 0x1130, 0x1194, 0x11F8] := by decide

/-- R254. -/
theorem test_crc_check_value :
    crc32 [0x31, 0x32, 0x33, 0x34, 0x35, 0x36, 0x37, 0x38, 0x39] = 0xCBF43926 := by decide +kernel

/-- R255. -/
theorem test_crc_short_vectors :
    crc32 [0x00] = 0xD202EF8D ∧ crc32 [0xFF] = 0xFF000000 ∧ crc32 [0x61] = 0xE8B7BE43 ∧
    crc32 [0x00, 0x00, 0x00, 0x00] = 0x2144DF1C := by decide +kernel

/-- R302: the proposed default is one-to-one. -/
theorem test_default_exit_code_legal : ExitCodeLegal defaultExitCode := by
  intro a b
  cases a <;> cases b <;> decide

/-- The memory right after reset has its canonical form. -/
theorem test_reset_memory_wf : State.reset.image.wf = true := by decide

/-! ## Witnesses: states and operands that meet the hypotheses of the obligations -/

/-- The fields of H2. -/
theorem fields_h2 : LineFields lineH2 recH2 :=
  ⟨by decide, by decide, ⟨0x04, 0x00, by decide, by decide, by decide⟩, by decide, by decide, by decide, by decide⟩

/-- The fields of H25. -/
theorem fields_h25 : LineFields lineH25 { recH2 with csum := 0xFC } :=
  ⟨by decide, by decide, ⟨0x04, 0x00, by decide, by decide, by decide⟩, by decide, by decide, by decide, by decide⟩

theorem witness_LineDecodesIffFieldsAndChecksum :
    LineFields lineH2 recH2 ∧ recH2.csum.toNat = requiredChecksum recH2 ∧ typeSelects recH2 (.recData recH2) :=
  ⟨fields_h2, by decide, .inl ⟨rfl, rfl⟩⟩

theorem witness_WrongChecksumIsChecksumMismatch : ∃ r, LineFields lineH25 r ∧ r.csum.toNat ≠ requiredChecksum r :=
  ⟨_, fields_h25, by decide⟩

/-- H15: H1 and H1 with CR LF agree below position 11. -/
theorem witness_TextAfterChecksumIsNotExamined :
    hexbyte lineH1 1 = some 0 ∧ ∀ p, p < 11 + 2 * (0 : Byte).toNat → (lineH1 ++ [0x0D, 0x0A])[p]? = lineH1[p]? := by
  decide

/-- S6: H2 with its second payload byte 55 rewritten to 54. -/
theorem witness_SinglePayloadByteChangeIsRejected :
    decode .line lineH2 = .ok (.recData recH2) ∧ LineFields lineH2 recH2 ∧ 1 < recH2.len.toNat ∧
    hexbyte ((lineH2.set (9 + 2 * 1) 0x35).set (10 + 2 * 1) 0x34) (9 + 2 * 1) ≠ none ∧
    hexbyte ((lineH2.set (9 + 2 * 1) 0x35).set (10 + 2 * 1) 0x34) (9 + 2 * 1) ≠ recH2.payload[1]? :=
  ⟨by decide, fields_h2, by decide, by decide, by decide⟩

theorem witness_DecodeOfEncodeIsTheInstruction :
    (Instr.recData recH2).wellFormed = true ∧ (Instr.recEof recH1).wellFormed = true ∧
    (Instr.recSkip recH6).wellFormed = true ∧ Instr.txData.wellFormed = true ∧
    Instr.rxAckPage.wellFormed = true := by decide

/-- The first clause at H2, the second at TX.SOF and at RX.ACK@PAGE. -/
theorem witness_StepRunsTheDecodedInstruction :
    ((decoding cfg [lineH2]).st = .sDecode ∧ (decoding cfg [lineH2]).lines[(decoding cfg [lineH2]).lineIdx]?
      = some lineH2 ∧ decode .line lineH2 = .ok (.recData recH2)) ∧
    (Instr.txSof.slot 0 ≠ .line ∧ (uploading .sSofTx []).st = guardOf .txSof) ∧
    (Instr.rxAckPage.slot 0 ≠ .line ∧ (uploading .sPageAck []).st = guardOf .rxAckPage) := by decide

/-- H17 for the first clause, H25 for the second. -/
theorem witness_UndecodableLineAborts :
    ((decoding cfg [lineH17]).st = .sDecode ∧ (decoding cfg [lineH17]).lines[(decoding cfg [lineH17]).lineIdx]?
      = some lineH17 ∧ decode .line lineH17 = .error .malformedLine) ∧
    ((decoding cfg [lineH25]).st = .sDecode ∧ (decoding cfg [lineH25]).lines[(decoding cfg [lineH25]).lineIdx]?
      = some lineH25 ∧ decode .line lineH25 = .error (.checksumMismatch 0xFB 0xFC)) := by decide

theorem witness_GuardNotMetIsRefused : State.reset.st ≠ guardOf .txSof := by decide

theorem witness_ClosedChannelFaults :
    Instr.txSof.slot 0 ≠ .line ∧ ({ uploading .sSofTx [] with chOpen := false } : State).st = guardOf .txSof ∧
    ({ uploading .sSofTx [] with chOpen := false } : State).chOpen = false ∧
    (Instr.txSof = .txInit → ({ uploading .sSofTx [] with chOpen := false } : State).cfg.initSeq ≠ none) := by decide

/-- M1, and M4 at the last address of the flash. -/
theorem witness_RecDataWritesItsPayload :
    (decoding cfg []).st = .sDecode ∧ (decoding cfg []).image.wf = true ∧
    (∀ k, k < recM1.payload.length → legalTarget (decoding cfg []).cfg ((decoding cfg []).goff + recM1.addr.toNat + k)) ∧
    (∀ k, k < recM4.payload.length →
      legalTarget (decoding cfg []).cfg ((decoding cfg []).goff + recM4.addr.toNat + k)) := by
  unfold legalTarget
  decide

/-- M5 for the upper bound of the range, M7 for the lower. -/
theorem witness_StrictRangeViolationAborts :
    (decoding cfg []).st = .sDecode ∧ (decoding cfg []).image.wf = true ∧ (decoding cfg []).cfg.strict = true ∧
    (2 < recM5.payload.length ∧
      (∀ j, j < 2 → legalTarget (decoding cfg []).cfg ((decoding cfg []).goff + recM5.addr.toNat + j)) ∧
      (decoding cfg []).cfg.flSize ≤ (decoding cfg []).goff + recM5.addr.toNat + 2) ∧
    (0 < recM7.payload.length ∧
      (∀ j, j < 0 → legalTarget (decoding cfg []).cfg ((decoding cfg []).goff + recM7.addr.toNat + j)) ∧
      (decoding cfg []).goff + recM7.addr.toNat + 0 < (decoding cfg []).cfg.blSize) := by
  unfold legalTarget
  decide

/-- The configuration of 95_test_vectors.md section 3 with CFG.STRICT = 0. -/
def lenient : Cfg := { cfg with strict := false }

/-- M6. -/
theorem witness_CapacityPanicAborts :
    (decoding lenient []).st = .sDecode ∧ (decoding lenient []).image.wf = true ∧
    (decoding lenient []).cfg.strict = false ∧ 2 < recM5.payload.length ∧
    (∀ j, j < 2 → (decoding lenient []).goff + recM5.addr.toNat + j < (decoding lenient []).cfg.flSize) ∧
    (decoding lenient []).cfg.flSize ≤ (decoding lenient []).goff + recM5.addr.toNat + 2 := by decide

theorem witness_RecDataFrame : (decoding cfg []).image.wf = true ∧
    ∃ t, exec (.recData recM1) (decoding cfg []) = .next t := ⟨by decide, _, rfl⟩

theorem witness_RecEofEndsDecoding : (decoding cfg [lineH1]).st = .sDecode := by decide

theorem witness_RecSkipOnlyAdvances : (decoding cfg [lineH6]).st = .sDecode := by decide

/-- One state for each clause: CFG.INIT = None, and Some with the channel open. -/
theorem witness_TxInitSendsTheConfiguredSequence :
    ((uploading .sInitTx []).st = .sInitTx ∧ (uploading .sInitTx []).cfg.initSeq = none) ∧
    (({ uploading .sInitTx [] with cfg := { cfg with initSeq := some [] } } : State).cfg.initSeq = some [] ∧
      (uploading .sInitTx []).chOpen = true) := by decide

theorem witness_TxSofSendsA0 : (uploading .sSofTx []).st = .sSofTx ∧ (uploading .sSofTx []).chOpen = true := by
  decide

theorem witness_TxAddrSendsCurAddrLittleEndian :
    (uploading .sAddrTx []).st = .sAddrTx ∧ (uploading .sAddrTx []).chOpen = true := by decide

theorem witness_TxDataSendsThePage :
    (uploading .sDataTx []).st = .sDataTx ∧ (uploading .sDataTx []).chOpen = true := by decide

theorem witness_TxCrcSendsThePageChecksum :
    (uploading .sCrcTx []).st = .sCrcTx ∧ (uploading .sCrcTx []).chOpen = true := by decide

theorem witness_TxRebootEndsTheRun :
    (uploading .sRebootTx []).st = .sRebootTx ∧ (uploading .sRebootTx []).chOpen = true := by decide

/-- Each RX statement: the expected reply for its first clause, another byte or a timeout for its second. -/
theorem witness_RxInitAckClassifies :
    (uploading .sInitAck [.byte 0x01]).st = .sInitAck ∧ (uploading .sInitAck [.byte 0x01]).chOpen = true ∧
    nextAnswer (uploading .sInitAck [.byte 0x01]) = .byte 0x01 ∧
    nextAnswer (uploading .sInitAck [.timeout]) ≠ .byte 0x01 := by decide

theorem witness_RxAckSofClassifies :
    (uploading .sSofAck [.byte 0x55]).st = .sSofAck ∧ (uploading .sSofAck [.byte 0x55]).chOpen = true ∧
    nextAnswer (uploading .sSofAck [.byte 0x55]) = .byte 0x55 ∧
    nextAnswer (uploading .sSofAck [.byte 0x54]) ≠ .byte 0x55 := by decide

theorem witness_RxAckAddrClassifies :
    (uploading .sAddrAck [.byte 0x55]).st = .sAddrAck ∧ (uploading .sAddrAck [.byte 0x55]).chOpen = true ∧
    nextAnswer (uploading .sAddrAck [.byte 0x55]) = .byte 0x55 ∧
    nextAnswer (uploading .sAddrAck [.byte 0x77]) ≠ .byte 0x55 := by decide

theorem witness_RxAckDataClassifies :
    (uploading .sDataAck [.byte 0x55]).st = .sDataAck ∧ (uploading .sDataAck [.byte 0x55]).chOpen = true ∧
    nextAnswer (uploading .sDataAck [.byte 0x55]) = .byte 0x55 ∧
    nextAnswer (uploading .sDataAck [.timeout]) ≠ .byte 0x55 := by decide

theorem witness_RxCrcAckClassifies :
    (uploading .sCrcAck [.byte 0x77]).st = .sCrcAck ∧ (uploading .sCrcAck [.byte 0x77]).chOpen = true ∧
    nextAnswer (uploading .sCrcAck [.byte 0x77]) = .byte 0x77 ∧
    nextAnswer (uploading .sCrcAck [.byte 0x55]) ≠ .byte 0x77 := by decide

theorem witness_RxAckPageAdvancesThePage :
    (uploading .sPageAck [.byte 0x55]).st = .sPageAck ∧ (uploading .sPageAck [.byte 0x55]).chOpen = true ∧
    nextAnswer (uploading .sPageAck [.byte 0x55]) = .byte 0x55 ∧
    nextAnswer (uploading .sPageAck [.timeout]) ≠ .byte 0x55 := by decide

theorem witness_ReadReturnsAnswerNumberRxCnt :
    (uploading .sSofAck [.timeout]).ans[(uploading .sSofAck [.timeout]).rxCnt]? = some .timeout := by decide

theorem witness_NonStoringRowsFrame :
    (∀ r, Instr.txSof ≠ .recData r) ∧ ∃ t, exec .txSof (uploading .sSofTx []) = .next t :=
  ⟨fun _ h => Instr.noConfusion h, _, rfl⟩

/-- Q2 for the first clause, at CFG.FL_SIZE = CFG.BL_SIZE; Q5 for the second, one byte above it. -/
theorem witness_ConfigurationCheck :
    State.reset.st = .sIdle ∧ ({ cfg with flSize := 0x10 } : Cfg).flSize ≤ ({ cfg with flSize := 0x10 } : Cfg).blSize ∧
    ¬ (({ cfg with flSize := 0x11, pageSize := 1 } : Cfg).pageSize = 0 ∨
      ({ cfg with flSize := 0x11, pageSize := 1 } : Cfg).flSize
        ≤ ({ cfg with flSize := 0x11, pageSize := 1 } : Cfg).blSize) := by decide

/-- Q7: no line at all. -/
theorem witness_EndOfInputGoesToPlan :
    (decoding cfg []).st = .sDecode ∧ (decoding cfg []).lines.length ≤ (decoding cfg []).lineIdx := by decide

/-- The least page size, 1. -/
theorem witness_PlanStep :
    ({ State.start { cfg with pageSize := 1 } [] [] with st := .sPlan } : State).st = .sPlan ∧
    0 < ({ State.start { cfg with pageSize := 1 } [] [] with st := .sPlan } : State).cfg.pageSize := by decide

theorem witness_PlanWithoutPageSizeStops :
    ({ State.reset with st := .sPlan } : State).st = .sPlan ∧
    ({ State.reset with st := .sPlan } : State).cfg.pageSize = 0 := by decide

theorem witness_ChannelAcquire : ({ State.reset with st := .sOpen } : State).st = .sOpen := by decide

/-- A page due, and the loop ended at CUR_ADDR = LAST_BOUNDARY. -/
theorem witness_PageLoopTest :
    (uploading .sPageTest []).st = .sPageTest ∧
    (uploading .sPageTest []).curAddr < (uploading .sPageTest []).lastBoundary ∧
    ({ uploading .sPageTest [] with curAddr := 0x18 } : State).lastBoundary
      ≤ ({ uploading .sPageTest [] with curAddr := 0x18 } : State).curAddr := by decide

theorem witness_PlannedPagesAreTheRange : 0 < cfg.pageSize := by decide

/-- `:01000F009957`, the record of M2, whose byte lies just below CFG.BL_SIZE. -/
def lineM2 : Line := [0x3A, 0x30, 0x31, 0x30, 0x30, 0x30, 0x46, 0x30, 0x30, 0x39, 0x39, 0x35, 0x37]

/-- A step that aborts in the decode phase at a line that does not decode, one at a Data byte, and one in a reply
state. -/
theorem witness_AbortingStepIsPrecise :
    (∃ t, step (decoding cfg [lineH17]) = .next t ∧ t.st = .sAborted ∧ (decoding cfg [lineH17]).st = .sDecode) ∧
    (∃ t, step (decoding cfg [lineM2]) = .next t ∧ t.st = .sAborted ∧ (decoding cfg [lineM2]).st = .sDecode ∧
      (decoding cfg [lineM2]).image.wf = true) ∧
    ∃ t, step (uploading .sSofAck [.timeout]) = .next t ∧ t.st = .sAborted ∧
      (uploading .sSofAck [.timeout]).st ≠ .sDecode :=
  ⟨⟨_, rfl, rfl, rfl⟩, ⟨_, rfl, rfl, rfl, rfl⟩, _, rfl, rfl, by decide⟩

theorem witness_ErrorsAreRaisedWhereNamed :
    ∃ t, step (uploading .sSofAck [.timeout]) = .next t ∧ t.result = .fail (.noAck .sof) ∧
      (uploading .sSofAck [.timeout]).result ≠ .fail (.noAck .sof) := ⟨_, rfl, rfl, by decide⟩

theorem witness_ConfigurationIsNeverWritten : ∃ t, step (decoding cfg [lineH1]) = .next t := ⟨_, rfl⟩

/-- A step in the decode phase, and one outside it. -/
theorem witness_ImageIsReadOnlyAfterDecode :
    (∃ t, step (decoding cfg [lineH1]) = .next t) ∧
    (uploading .sSofTx []).st ≠ .sDecode ∧ ∃ t, step (uploading .sSofTx []) = .next t :=
  ⟨⟨_, rfl⟩, by decide, _, rfl⟩

/-- A step that sends, and one that reads. -/
theorem witness_ChannelHistoryOnlyGrows :
    (∃ t, step (uploading .sSofTx []) = .next t ∧ t.txLog ≠ (uploading .sSofTx []).txLog) ∧
    ∃ t, step (uploading .sSofAck [.timeout]) = .next t ∧ t.rxCnt ≠ (uploading .sSofAck [.timeout]).rxCnt :=
  ⟨⟨_, rfl, by decide⟩, _, rfl, by decide⟩

theorem witness_PhasesPassInOrder : ∃ t, step (decoding cfg []) = .next t ∧ t.st ≠ .sAborted := ⟨_, rfl, by decide⟩

/-- An address below CFG.FL_SIZE and the first one that is not. -/
theorem witness_ImageReadAfterWrite :
    (decoding cfg []).image.wf = true ∧ 0x3F < (decoding cfg []).cfg.flSize ∧
    (decoding cfg []).cfg.flSize ≤ 0x40 := by decide

/-- A state of the invariants with a step to make: the start of any run. -/
theorem start_inv (c : Cfg) (lines : List Line) (ans : List Answer) :
    Machine.Inv (State.start c lines ans) where
  imageWf := rfl
  imageBound := fun _ h => absurd h List.not_mem_nil
  hwmBelowFlash := .inl rfl
  hwmReach := Nat.zero_le _
  goffZero := rfl
  recordOk := (by decide : zeroRecord.wellFormed = true)
  channel := rfl
  resultOk := rfl
  configOk := .inl rfl

theorem witness_StepKeepsInvariant :
    Machine.Inv (State.start cfg [] []) ∧ ∃ t, step (State.start cfg [] []) = .next t :=
  ⟨start_inv _ _ _, _, rfl⟩

/-- A state of the protocol invariant in the middle of the upload: the SOF frame of the page at 0x10 has been sent,
its reply has not been read. -/
def sofSent : State :=
  { uploading .sSofAck [.byte 0x55] with hwm := 0x11, image := [(0x11, 0x05)], pageCount := 1, txLog := [0xA0] }

theorem sofSent_plan : PlanOk sofSent where
  boundary := by decide
  count := by decide
  current := by decide
  sent := .inl rfl
  inFlight := fun _ => by decide
  none_sent := fun h => absurd h (by decide)
  all_sent := fun h => absurd h (by decide)

theorem witness_StepKeepsUploadInvariant : UploadInv sofSent ∧ ∃ t, step sofSent = .next t :=
  ⟨{ log := by decide
     reads := by decide
     plan := fun _ => sofSent_plan
     fresh := fun h => absurd h (by decide)
     initAwaited := by decide }, _, rfl⟩

theorem witness_RunsDoNotStopEarly :
    Machine.Inv (State.start cfg [] []) ∧ (State.start cfg [] []).st ≠ .sDone ∧
    (State.start cfg [] []).st ≠ .sAborted := ⟨start_inv _ _ _, by decide, by decide⟩

/-- A finished run. -/
theorem witness_OutcomeIsFinal :
    Machine.Inv { State.start cfg [] [] with st := .sDone, result := .success } ∧
    ({ State.start cfg [] [] with st := .sDone, result := .success } : State).result ≠ .none :=
  ⟨{ start_inv cfg [] [] with
     channel := rfl
     resultOk := rfl
     configOk := .inr (.inr (by decide)) }, by decide⟩

/-- `:0100110005E9`, the Data record of Q6. -/
def lineQ6 : Line := [0x3A, 0x30, 0x31, 0x30, 0x30, 0x31, 0x31, 0x30, 0x30, 0x30, 0x35, 0x45, 0x39]

/-- Q6 with the init byte 12 of U9 before it: one page, its five replies and the INIT reply, to S_DONE. -/
theorem witness_SuccessfulRunOutput :
    ∃ t, Host.Core.run Sys2Proof.core 19 (State.start { cfg with initSeq := some [0x12] } [lineQ6]
        [.byte 0x01, .byte 0x55, .byte 0x55, .byte 0x55, .byte 0x77, .byte 0x55]) = .next t ∧
      t.st = .sDone ∧ t.pageIdx = 1 := ⟨_, rfl, rfl, rfl⟩

/-- Three steps over the Data record H2 end decoding. -/
theorem witness_ImageAfterDecoding :
    ∃ t, Host.Core.run Sys2Proof.core 3 (State.start { cfg with flSize := 0x4000 } [lineH2] []) = .next t ∧
      t.st = .sPlan := ⟨_, rfl, rfl⟩

/-- Q9: an EOF line with a line after it. -/
theorem witness_LinesAfterEofAreNeverExamined :
    decode .line lineH1 = .ok (.recEof recH1) ∧
    ∃ t, Host.Core.run Sys2Proof.core 2 (State.start cfg ([] ++ lineH1 :: [lineH17]) []) = .next t :=
  ⟨by decide, _, rfl⟩

/-- One state for each clause. -/
theorem witness_SupplyOnlyInIdle : State.reset.st = .sIdle ∧ (decoding cfg []).st ≠ .sIdle := by decide

end Sys2Proof.Tests
end

/-! The statements of 00_scope.md: hex digits of either case (R15), and which of its outcomes a step answers
(R16, 10_state.md R30). -/

namespace Sys2Proof.Machine

/-! ## Hex digits in lower case (00_scope.md R15) -/

/-- A character with A to F in lower case, as `lowerCase` does it to every character of a line. -/
def lowerDigit (c : Byte) : Byte := if 0x41 ≤ c.toNat ∧ c.toNat ≤ 0x46 then c + 0x20#8 else c

theorem getElem?_lowerCase (l : Line) (p : Nat) : (lowerCase l)[p]? = l[p]?.map lowerDigit :=
  List.getElem?_map

theorem lowerDigit_upper {c : Byte} (h : 0x41 ≤ c.toNat ∧ c.toNat ≤ 0x46) :
    (lowerDigit c).toNat = c.toNat + 0x20 := by
  rw [lowerDigit, if_pos h, BitVec.toNat_add, show (0x20#8).toNat = 0x20 from rfl]
  omega

theorem lowerDigit_other {c : Byte} (h : ¬ (0x41 ≤ c.toNat ∧ c.toNat ≤ 0x46)) : lowerDigit c = c := if_neg h

/-- Only A to F change, and a to f have the same values (00_scope.md R15). -/
@[simp] theorem hexval_lowerDigit (c : Byte) : hexval (lowerDigit c) = hexval c := by
  by_cases h : 0x41 ≤ c.toNat ∧ c.toNat ≤ 0x46
  · rw [hexval, lowerDigit_upper h, if_neg (by omega), if_neg (by omega), if_pos (by omega), hexval,
      if_neg (by omega), if_pos h, show c.toNat + 0x20 - 0x61 = c.toNat - 0x41 by omega]
  · rw [lowerDigit_other h]

/-- The start marker is no letter, and no letter becomes it. -/
theorem lowerDigit_eq_startMarker (c : Byte) : lowerDigit c = startMarker ↔ c = startMarker := by
  by_cases h : 0x41 ≤ c.toNat ∧ c.toNat ≤ 0x46
  · have hl := lowerDigit_upper h
    constructor
    · intro hm
      rw [hm, show startMarker.toNat = 0x3A from rfl] at hl
      omega
    · intro hm
      rw [hm, show startMarker.toNat = 0x3A from rfl] at h
      omega
  · rw [lowerDigit_other h]

@[simp] theorem hexbyte_lowerCase (l : Line) (p : Nat) : hexbyte (lowerCase l) p = hexbyte l p := by
  unfold hexbyte
  rw [getElem?_lowerCase, getElem?_lowerCase]
  cases l[p]? with
  | none => rfl
  | some c =>
    cases l[p + 1]? with
    | none => rfl
    | some d => simp only [Option.map_some, hexval_lowerDigit]

@[simp] theorem hexbytes_lowerCase (l : Line) (n : Nat) : ∀ p, hexbytes (lowerCase l) p n = hexbytes l p n := by
  induction n with
  | zero => intro p; rfl
  | succ n ih => intro p; simp only [hexbytes, hexbyte_lowerCase, ih]

@[simp] theorem hasStartMarker_lowerCase (l : Line) : hasStartMarker (lowerCase l) = hasStartMarker l := by
  unfold hasStartMarker
  rw [getElem?_lowerCase]
  cases l[0]? with
  | none => rfl
  | some c =>
    rw [Bool.eq_iff_iff]
    simp [lowerDigit_eq_startMarker]

@[simp] theorem parseFields_lowerCase (l : Line) : parseFields (lowerCase l) = parseFields l := by
  simp only [parseFields, hexbyte_lowerCase, hexbytes_lowerCase]

theorem decodeRecord_lowerCase (l : Line) : decodeRecord (lowerCase l) = decodeRecord l := by
  simp only [decodeRecord, hasStartMarker_lowerCase, parseFields_lowerCase]

/-! ## A meaning and its guard (00_scope.md R16) -/

/-- Every meaning stands under the guard of its row. -/
theorem exec_eq_whenAt (i : Instr) (s : State) : ∃ k, exec i s = whenAt (guardOf i) s k := by
  cases i <;> exact ⟨_, rfl⟩

/-- In S_DECODE a step runs the instruction of the line at LINE_IDX (45_run_sequencer.md R268). -/
theorem step_of_line {s : State} {l : Line} {i : Instr} (hs : s.st = .sDecode) (hl : s.lines[s.lineIdx]? = some l)
    (hd : decode .line l = .ok i) : step s = exec i s := by
  simp only [step, fetch, hs, fetchLine, hl, hd]

/-- In a state that sends or expects an item a step runs the instruction of that state (10_state.md R30). -/
theorem step_of_guard {s : State} {i : Instr} {n : Nat} (hn : i.slot n ≠ .line) (hs : s.st = guardOf i) :
    step s = exec i s := by
  have hf : fetch s = .instr i := by
    cases i with
    | recData r => exact absurd rfl hn
    | recEof r => exact absurd rfl hn
    | recSkip r => exact absurd rfl hn
    | _ => simp only [fetch, hs, guardOf]
  simp only [step, hf]

/-! ## The outcomes of a step -/

/-- The outcomes a step can have, each with what holds of the state it is taken in. -/
inductive StepOutcome (s : State) : Out → Prop where
  | next (t : State) (hs : terminal s.st = false) : StepOutcome s (.next t)
  | channelNotOpen (ho : owningChannel s.st = true) (hc : s.chOpen = false) : StepOutcome s (.fault .channelNotOpen)
  | pageSizeZero (hs : s.st = .sPlan) (hp : s.cfg.pageSize = 0) : StepOutcome s (.fault .pageSizeZero)
  | runEnded (hs : terminal s.st = true) : StepOutcome s (.refused .runEnded)

theorem terminal_iff {g : St} : terminal g = true ↔ g = .sDone ∨ g = .sAborted := by
  cases g <;> decide

/-- No instruction is met after the end. -/
theorem terminal_guardOf (i : Instr) : terminal (guardOf i) = false := by
  cases i <;> rfl

/-- In the state a rule names, the guard adds nothing. -/
theorem whenAt_outcome {g : St} {s : State} {k : Out} (hs : s.st = g) (hk : StepOutcome s k) :
    StepOutcome s (whenAt g s k) := by
  rwa [whenAt_pos hs]

theorem whenOpen_outcome {s : State} {k : Out} (ho : owningChannel s.st = true) (hk : StepOutcome s k) :
    StepOutcome s (whenOpen s k) := by
  cases hc : s.chOpen with
  | true => rwa [whenOpen_pos hc]
  | false => rw [whenOpen_neg hc]; exact .channelNotOpen ho hc

/-- `Expect` goes on, whichever answer it reads, once the channel is open (43_upload_protocol.md R203). -/
theorem expect_outcome {s : State} (e : Byte) (err : RunError) (k : State → State) (ho : owningChannel s.st = true)
    (hs : terminal s.st = false) : StepOutcome s (expect e err k s) := by
  refine whenOpen_outcome ho ?_
  split
  · exact .next _ hs
  · exact .next _ hs

/-- An instruction met in its state goes on, or stops at a closed channel (20_memory.md R68, R70). -/
theorem exec_outcome {i : Instr} {s : State} (hs : s.st = guardOf i) : StepOutcome s (exec i s) := by
  have ht : terminal s.st = false := by rw [hs, terminal_guardOf]
  have hnext : ∀ t, StepOutcome s (.next t) := fun t => .next t ht
  cases i with
  | recData r =>
    refine whenAt_outcome hs ?_
    split
    · exact hnext _
    · exact hnext _
  | recEof r | recSkip r => exact whenAt_outcome hs (hnext _)
  | txInit =>
    refine whenAt_outcome hs ?_
    split
    · exact hnext _
    · exact whenOpen_outcome (by rw [hs]; rfl) (hnext _)
  | txSof | txAddr | txData | txCrc | txReboot =>
    exact whenAt_outcome hs (whenOpen_outcome (by rw [hs]; rfl) (hnext _))
  | rxInitAck | rxAckSof | rxAckAddr | rxAckData | rxCrcAck | rxAckPage =>
    exact whenAt_outcome hs (expect_outcome _ _ _ (by rw [hs]; rfl) ht)

/-- A line that decodes is met in S_DECODE. -/
theorem guardOf_of_decode_line {l : Line} {i : Instr} (h : decode .line l = .ok i) : guardOf i = .sDecode := by
  obtain ⟨r, -, rfl⟩ := decode_line_ok.1 h
  unfold dispatchRecord
  split
  · rfl
  · split <;> rfl

/-- In S_DECODE every line goes on, decodable or not, and so does the end of the input
(45_run_sequencer.md R268, R272). -/
theorem step_outcome_decode {s : State} (hs : s.st = .sDecode) : StepOutcome s (step s) := by
  have ht : terminal s.st = false := by rw [hs]; rfl
  cases hl : s.lines[s.lineIdx]? with
  | none =>
    have hend : s.lines.length ≤ s.lineIdx := by simpa using hl
    have hstep : step s = .next { s with st := .sPlan } := by
      simp only [step, fetch, hs, fetchLine, hl, runControl, endOfInput, whenAt_pos hs, if_pos hend]
    exact hstep ▸ .next _ ht
  | some l =>
    cases hd : decode .line l with
    | ok i => rw [step_of_line hs hl hd]; exact exec_outcome (hs.trans (guardOf_of_decode_line hd).symm)
    | error e =>
      have hstep : step s = .next (abort (lineError s.lineIdx e) s) := by
        simp only [step, fetch, hs, fetchLine, hl, hd, rejectLine, whenAt_pos hs]
      exact hstep ▸ .next _ ht

/-- The plan stops at page size 0 alone (42_page_scheduler.md R180). -/
theorem planPages_outcome {s : State} (hs : s.st = .sPlan) : StepOutcome s (planPages s) := by
  refine whenAt_outcome hs ?_
  split
  · exact .pageSizeZero hs ‹_›
  · exact .next _ (by rw [hs]; rfl)

/-- Everything a step can answer, stops included; what its next states are says `step_cases`. -/
theorem step_outcome (s : State) : StepOutcome s (step s) := by
  cases hs : s.st with
  | sIdle =>
    rw [step, fetch, hs]
    refine whenAt_outcome hs ?_
    split
    · exact .next _ (by rw [hs]; rfl)
    · exact .next _ (by rw [hs]; rfl)
  | sDecode => exact step_outcome_decode hs
  | sPlan => rw [step, fetch, hs]; exact planPages_outcome hs
  | sOpen =>
    rw [step, fetch, hs]
    exact whenAt_outcome hs (.next _ (by rw [hs]; rfl))
  | sPageTest =>
    rw [step, fetch, hs]
    exact whenAt_outcome hs (.next _ (by rw [hs]; rfl))
  | sDone => rw [step, fetch, hs]; exact .runEnded (by rw [hs]; rfl)
  | sAborted => rw [step, fetch, hs]; exact .runEnded (by rw [hs]; rfl)
  | _ => rw [step, fetch, hs]; exact exec_outcome hs

/-- In the invariant the plan is never made with page size 0 (00_scope.md R8). -/
theorem Inv.pageSize_ne_zero {s : State} (h : Inv s) (hs : s.st = .sPlan) : s.cfg.pageSize ≠ 0 := by
  have hres : s.result = .none := by simpa [resultFits, hs] using h.resultOk
  rcases h.configOk with hi | hf | hc
  · rw [hs] at hi; cases hi
  · rw [hres] at hf; cases hf
  · intro hp
    simp [configBad, hp] at hc

/-! ## The obligations -/

/-- Settles O5, from what the parts of the decoder read in a line with lower-case digits. -/
theorem lowerCaseDecodesAlike : Obligations.LowerCaseDecodesAlike := by
  intro l
  show decodeLine (lowerCase l) = decodeLine l
  rw [decodeLine, decodeRecord_lowerCase, decodeLine]

/-- Settles O40, by the outcomes of a step: its only refusal is the one of a terminal state. -/
theorem stepRefusesExactlyAtTheEnd : Obligations.StepRefusesExactlyAtTheEnd := by
  intro s
  refine ⟨⟨fun h => ?_, fun h => ?_⟩, fun q h => ?_⟩
  · have ho := step_outcome s
    rw [h] at ho
    cases ho with
    | runEnded hs => exact terminal_iff.1 hs
  · rcases h with h | h <;> simp only [step, fetch, h]
  · have ho := step_outcome s
    rw [h] at ho
    cases ho with
    | runEnded hs => rfl

/-- Settles O53: the invariant excludes the closed channel and page size 0, the only stops before the end. -/
theorem runsDoNotStopEarly : Obligations.RunsDoNotStopEarly := by
  intro s hinv hdone haborted
  have ho := step_outcome s
  generalize step s = o at ho ⊢
  cases ho with
  | next t hs => exact ⟨t, rfl⟩
  | channelNotOpen how hc =>
    rw [hinv.channel, how] at hc
    cases hc
  | pageSizeZero hs hp => exact absurd hp (hinv.pageSize_ne_zero hs)
  | runEnded hs => exact (terminal_iff.1 hs).elim (absurd · hdone) (absurd · haborted)

/-- Settles O10, from what `fetch` answers in each of the two kinds of state. -/
theorem stepRunsTheDecodedInstruction : Obligations.StepRunsTheDecodedInstruction :=
  ⟨fun _ _ _ hs hl hd => ⟨decode_line_wellFormed hd, step_of_line hs hl hd⟩,
    fun _ _ _ hn hs => step_of_guard hn hs⟩

/-- Settles O12: every meaning stands under its row's guard. -/
theorem guardNotMetIsRefused : Obligations.GuardNotMetIsRefused := by
  intro i s h
  obtain ⟨k, hk⟩ := exec_eq_whenAt i s
  rw [hk, whenAt_neg h]

end Sys2Proof.Machine

/-! The statements of 10_state.md: what a step writes of each group of registers, the invariant of the state, and that
every run ends. -/

namespace Sys2Proof.Machine

/-! ## What a move writes, one group of registers at a time -/

/-- No rule writes what the outside layer supplies, nor GOFF (10_state.md R27, R35). -/
theorem Move.supplied_unchanged {s t : State} (h : Move s t) :
    t.cfg = s.cfg ∧ t.lines = s.lines ∧ t.ans = s.ans ∧ t.goff = s.goff := by
  cases h with
  | data | dataAbort => simp
  | _ => exact ⟨rfl, rfl, rfl, rfl⟩

/-- What a move can do to IMAGE, HWM and REC: nothing, or in S_DECODE latch a record and write as many bytes of its
payload as have legal targets (40_record_decoder.md R138, 41_image_builder.md R161). -/
theorem Move.store_cases {s t : State} (h : Move s t) :
    (t.image = s.image ∧ t.hwm = s.hwm ∧ t.recLatch = s.recLatch) ∨
    (s.st = .sDecode ∧ ∃ (r : Record) (n : Nat), r.wellFormed = true ∧ n ≤ r.payload.length ∧
      (∀ j, j < n → targetError s (targetBase s r + j) = none) ∧ t.recLatch = r ∧
      t.image = (writeAll (targetBase s r) (r.payload.take n) (latchRecord r s)).image ∧
      t.hwm = watermark s.hwm (targetBase s r) n) := by
  cases h with
  | data hs r hr hl => exact .inr ⟨hs, r, _, hr, le_rfl, hl, by simp, by simp, by simp [writeAll_hwm]⟩
  | dataAbort hs r hr k e hk hl =>
    exact .inr ⟨hs, r, k, hr, hk.le, hl, by simp, rfl, by simp [writeAll_hwm, hk.le]⟩
  | eof hs r hr | skip hs r hr =>
    exact .inr ⟨hs, r, 0, hr, Nat.zero_le _, fun _ hj => absurd hj (Nat.not_lt_zero _), rfl, rfl, rfl⟩
  | _ => exact .inl ⟨rfl, rfl, rfl⟩

/-- What a move can do to the channel's history: nothing, one send or one read, the latter two with the channel open
(20_memory.md R68, R70). -/
theorem Move.history_cases {s t : State} (h : Move s t) :
    (t.txLog = s.txLog ∧ t.rxCnt = s.rxCnt) ∨
    (s.chOpen = true ∧ (∃ bytes, t.txLog = s.txLog ++ bytes) ∧ t.rxCnt = s.rxCnt) ∨
    (s.chOpen = true ∧ t.txLog = s.txLog ∧ t.rxCnt = s.rxCnt + 1) := by
  cases h with
  | data | dataAbort => exact .inl (by simp)
  | initSome hc | sof hc | addr hc | page hc | crc hc | reboot hc => exact .inr (.inl ⟨hc, ⟨_, rfl⟩, rfl⟩)
  | reply hc | replyWrong hc | pageAck hc | pageAckWrong hc => exact .inr (.inr ⟨hc, rfl, rfl⟩)
  | _ => exact .inl ⟨rfl, rfl⟩

/-- An awaited reply leads from one state that owns the channel to another. -/
theorem owningChannel_of_replyTable {g g' : St} {e : RunError} (hm : (g, g', e) ∈ replyTable) :
    owningChannel g = true ∧ owningChannel g' = true := by
  have hall : ∀ p ∈ replyTable, owningChannel p.1 = true ∧ owningChannel p.2.1 = true := by decide
  exact hall _ hm

/-- A state that owns the channel is not terminal. -/
theorem terminal_of_owningChannel {g : St} : owningChannel g = true → terminal g = false := by
  cases g <;> decide

/-- What a move can do to ST and RESULT: go on without a result, end in an abort, or end in success
(10_state.md R40). -/
theorem Move.result_cases {s t : State} (h : Move s t) :
    (terminal t.st = false ∧ t.result = s.result) ∨ (t.st = .sAborted ∧ ∃ e, t.result = .fail e) ∨
    (t.st = .sDone ∧ t.result = .success) := by
  cases h with
  | configError | badLine | dataAbort | replyWrong | pageAckWrong => exact .inr (.inl ⟨rfl, _, rfl⟩)
  | reboot => exact .inr (.inr ⟨rfl, rfl⟩)
  | data hs | skip hs => exact .inl ⟨by simp [hs, terminal], by simp⟩
  | reply hc g e hm => exact .inl ⟨terminal_of_owningChannel (owningChannel_of_replyTable hm).2, rfl⟩
  | _ => exact .inl ⟨rfl, rfl⟩

/-- CH_OPEN follows ST (10_state.md R41): opened by the acquire, closed by the reboot and by every abort. -/
theorem Move.channel_follows {s t : State} (h : Move s t) (hc : s.chOpen = owningChannel s.st) :
    t.chOpen = owningChannel t.st := by
  cases h with
  | configError | badLine | dataAbort | replyWrong | pageAckWrong | acquire | reboot => rfl
  | data hs | skip hs => simpa using hc
  | reply ho g e hm => exact ho.trans (owningChannel_of_replyTable hm).2.symm
  | configOk hs | endOfInput hs | eof hs | plan hs | pageDue hs | pagesDone hs | initNone hs =>
    exact hc.trans (by rw [hs]; rfl)
  | initSome ho | sof ho | addr ho | page ho | crc ho | pageAck ho => exact ho

/-! ## The watermark (10_state.md R36, 41_image_builder.md R166) -/

theorem le_watermark (hwm t n : Nat) : hwm ≤ watermark hwm t n := by
  unfold watermark
  split
  · exact le_rfl
  · exact le_max_left ..

/-- Every address of a run of bytes is under the watermark after it. -/
theorem address_le_watermark {hwm t n a : Nat} (hlo : t ≤ a) (hhi : a < t + n) : a ≤ watermark hwm t n := by
  unfold watermark
  split <;> omega

/-- What holds of the old watermark and of every address written holds of the new watermark. -/
theorem watermark_induction {p : Nat → Prop} {hwm t n : Nat} (h : p hwm) (hw : ∀ j, j < n → p (t + j)) :
    p (watermark hwm t n) := by
  unfold watermark
  split
  · exact h
  · rename_i hn
    exact max_rec' p h (hw _ (by omega))

/-! ## The invariant of the state -/

/-- The greatest target address a record can name: its address is 16 bits and its length 8 bits
(20_memory.md R64, 10_state.md R36). -/
theorem target_le {r : Record} {j : Nat} (hr : r.wellFormed = true) (hj : j < r.payload.length) :
    r.addr.toNat + j ≤ 0x100FD := by
  have hlen : r.payload.length = r.len.toNat := by
    simp only [Record.wellFormed, Record.lengthOk, Bool.and_eq_true, beq_iff_eq] at hr
    exact hr.1
  have := r.addr.isLt
  have := r.len.isLt
  omega

/-- RESULT in a state that is not terminal (10_state.md R40). -/
theorem resultFits_of_not_terminal {g : St} {r : RunResult} (hg : terminal g = false) :
    resultFits g r = true ↔ r = .none := by
  cases g with
  | sDone | sAborted => cases hg
  | _ => exact beq_iff_eq

/-- A step is taken before the end only (10_state.md R30). -/
theorem not_terminal_of_step {s t : State} (h : step s = .next t) : terminal s.st = false := by
  have ho := step_outcome s
  rw [h] at ho
  cases ho with
  | next _ hs => exact hs

/-- Before the end there is no result. -/
theorem Inv.result_none {s : State} (hi : Inv s) (hs : terminal s.st = false) : s.result = .none :=
  (resultFits_of_not_terminal hs).1 hi.resultOk

/-- Between S_IDLE and the end the configuration is legal (00_scope.md R8). -/
theorem Inv.config_legal {s : State} (hi : Inv s) (hs : terminal s.st = false) (hidle : s.st ≠ .sIdle) :
    configBad s.cfg = false := by
  rcases hi.configOk with h | h | h
  · exact absurd h hidle
  · rw [hi.result_none hs] at h; cases h
  · exact h

/-- A step out of S_IDLE has found a legal configuration, or aborts with ConfigError (45_run_sequencer.md R267). -/
theorem config_checked_of_step {s t : State} (h : step s = .next t) (hidle : s.st = .sIdle) :
    t.result = .fail .configError ∨ configBad t.cfg = false := by
  rw [step, fetch, hidle] at h
  obtain ⟨-, h⟩ := whenAt_next h
  split at h
  · cases h; exact .inl rfl
  · rename_i hbad; cases h; exact .inr (Bool.eq_false_iff.2 hbad)

/-- The clauses of the invariant about IMAGE, HWM and REC. -/
structure StoreOk (s : State) : Prop where
  imageWf : s.image.wf = true
  imageBound : ∀ c ∈ s.image, c.1 < s.cfg.flSize ∧ c.1 ≤ s.hwm
  hwmBelowFlash : s.hwm = 0 ∨ s.hwm < s.cfg.flSize
  hwmReach : s.hwm ≤ 0x100FD
  recordOk : s.recLatch.wellFormed = true

theorem Inv.storeOk {s : State} (hi : Inv s) : StoreOk s :=
  ⟨hi.imageWf, hi.imageBound, hi.hwmBelowFlash, hi.hwmReach, hi.recordOk⟩

/-- The clauses about IMAGE, HWM and REC after any move: the bytes written lie below CFG.FL_SIZE, under the new
watermark and within the reach of a record. -/
theorem Move.storeOk {s t : State} (h : Move s t) (hi : Inv s) : StoreOk t := by
  obtain ⟨hcfg, -⟩ := h.supplied_unchanged
  rcases h.store_cases with ⟨himg, hhwm, hrec⟩ | ⟨-, r, n, hr, hn, hlegal, hrec, himg, hhwm⟩
  · have hs := hi.storeOk
    constructor
    · exact himg ▸ hs.imageWf
    · rw [himg, hcfg, hhwm]; exact hs.imageBound
    · rw [hcfg, hhwm]; exact hs.hwmBelowFlash
    · exact hhwm ▸ hs.hwmReach
    · exact hrec ▸ hs.recordOk
  · have hbelow : ∀ j, j < n → targetBase s r + j < s.cfg.flSize := fun j hj =>
      (targetError_none.1 (hlegal j hj)).1
    have hreach : ∀ j, j < n → targetBase s r + j ≤ 0x100FD := fun j hj => by
      rw [targetBase, hi.goffZero, Nat.zero_add]
      exact target_le hr (by omega)
    constructor
    · exact himg ▸ writeAll_wf _ _ _ hi.imageWf
    · intro c hc
      rw [hcfg, hhwm]
      rw [himg] at hc
      rcases writeAll_mem _ _ _ _ hc with hold | ⟨hlo, hhi⟩
      · obtain ⟨hfl, hle⟩ := hi.imageBound c hold
        exact ⟨hfl, hle.trans (le_watermark ..)⟩
      · rw [List.length_take_of_le hn] at hhi
        have hfl := hbelow (c.1 - targetBase s r) (by omega)
        exact ⟨by omega, address_le_watermark hlo hhi⟩
    · rw [hcfg, hhwm]
      exact watermark_induction (p := fun a => a = 0 ∨ a < s.cfg.flSize) hi.hwmBelowFlash
        fun j hj => .inr (hbelow j hj)
    · rw [hhwm]
      exact watermark_induction (p := (· ≤ 0x100FD)) hi.hwmReach hreach
    · exact hrec ▸ hr

/-- RESULT fits ST after any move (10_state.md R40). -/
theorem Move.result_fits {s t : State} (h : Move s t) (hs : s.result = .none) : resultFits t.st t.result = true := by
  rcases h.result_cases with ⟨ht, hres⟩ | ⟨ht, e, hres⟩ | ⟨ht, hres⟩
  · exact (resultFits_of_not_terminal ht).2 (hres.trans hs)
  · rw [ht, hres]; rfl
  · rw [ht, hres]; rfl

/-- Every step keeps the invariant. -/
theorem Inv.preserved {s t : State} (hi : Inv s) (h : step s = .next t) : Inv t := by
  have hm := step_move h
  have hs := not_terminal_of_step h
  have hstore := hm.storeOk hi
  obtain ⟨hcfg, -, -, hgoff⟩ := hm.supplied_unchanged
  have hconfig : t.result = .fail .configError ∨ configBad t.cfg = false := by
    by_cases hidle : s.st = .sIdle
    · exact config_checked_of_step h hidle
    · exact .inr (hcfg ▸ hi.config_legal hs hidle)
  exact {
    imageWf := hstore.imageWf
    imageBound := hstore.imageBound
    hwmBelowFlash := hstore.hwmBelowFlash
    hwmReach := hstore.hwmReach
    goffZero := hgoff.trans hi.goffZero
    recordOk := hstore.recordOk
    channel := hm.channel_follows hi.channel
    resultOk := hm.result_fits (hi.result_none hs)
    configOk := .inr hconfig }

/-- The invariant holds at the start of every run. -/
theorem inv_start (cfg : Cfg) (lines : List Line) (ans : List Answer) : Inv (State.start cfg lines ans) where
  imageWf := rfl
  imageBound := fun _ hc => absurd hc List.not_mem_nil
  hwmBelowFlash := .inl rfl
  hwmReach := Nat.zero_le _
  goffZero := rfl
  recordOk := (by decide : zeroRecord.wellFormed = true)
  channel := rfl
  resultOk := rfl
  configOk := .inl rfl

/-- The protocol invariant holds at the start of every run: nothing is planned, sent or read. -/
theorem uploadInv_start (cfg : Cfg) (lines : List Line) (ans : List Answer) :
    UploadInv (State.start cfg lines ans) where
  log := rfl
  reads := rfl
  plan := fun h => absurd h Bool.false_ne_true
  fresh := fun _ => rfl
  initAwaited := by rintro (h | ⟨h, -⟩) <;> cases h

/-! ## Every run ends (60_exceptions.md R324) -/

/-- The pages from address `cur` up to the boundary, rounded up. -/
def pagesFrom (c : Cfg) (boundary cur : Nat) : Nat := pageCeil (boundary - cur) c.pageSize

/-- No plan holds more pages than the greatest watermark (10_state.md R36). -/
def maxPages : Nat := 0x100FD

/-- A bound on the steps left in each state: one for each line not yet read, ten for each page not yet complete, and
the fixed steps of the run. -/
def stepsLeft (s : State) : Nat :=
  let rest := 10 * pagesFrom s.cfg s.lastBoundary s.curAddr
  let restAfterPage := 10 * pagesFrom s.cfg s.lastBoundary (s.curAddr + s.cfg.pageSize)
  match s.st with
  | .sIdle => s.lines.length - s.lineIdx + 8 + 10 * maxPages
  | .sDecode => s.lines.length - s.lineIdx + 7 + 10 * maxPages
  | .sPlan => 6 + 10 * maxPages
  | .sOpen => 5 + rest
  | .sInitTx => 4 + rest
  | .sInitAck => 3 + rest
  | .sPageTest => 2 + rest
  | .sSofTx => 11 + restAfterPage
  | .sSofAck => 10 + restAfterPage
  | .sAddrTx => 9 + restAfterPage
  | .sAddrAck => 8 + restAfterPage
  | .sDataTx => 7 + restAfterPage
  | .sDataAck => 6 + restAfterPage
  | .sCrcTx => 5 + restAfterPage
  | .sCrcAck => 4 + restAfterPage
  | .sPageAck => 3 + restAfterPage
  | .sRebootTx => 1
  | .sDone => 0
  | .sAborted => 0

/-- As many bytes need no more than as many pages. -/
theorem pageCeil_le {p : Nat} (x : Nat) (hp : 0 < p) : pageCeil x p ≤ x := by
  unfold pageCeil
  rw [← Nat.lt_succ_iff, Nat.div_lt_iff_lt_mul hp]
  have := Nat.le_mul_of_pos_right x hp
  rw [Nat.succ_mul]
  omega

theorem pageCeil_mul {p : Nat} (n : Nat) (hp : 0 < p) : pageCeil (n * p) p = n := by
  unfold pageCeil
  rw [Nat.add_sub_assoc hp, Nat.mul_comm, Nat.mul_add_div hp, Nat.div_eq_of_lt (by omega), Nat.add_zero]

theorem pageCeil_mono {x y : Nat} (p : Nat) (h : x ≤ y) : pageCeil x p ≤ pageCeil y p :=
  Nat.div_le_div_right (by omega)

/-- The plan holds no more pages than the watermark (42_page_scheduler.md R181, R188). -/
theorem pagesFrom_plan_le {c : Cfg} (hwm cur : Nat) (hp : 0 < c.pageSize) :
    pagesFrom c (pageCeil hwm c.pageSize * c.pageSize) cur ≤ hwm :=
  calc pagesFrom c (pageCeil hwm c.pageSize * c.pageSize) cur
    _ ≤ pageCeil (pageCeil hwm c.pageSize * c.pageSize) c.pageSize := pageCeil_mono _ (Nat.sub_le ..)
    _ = pageCeil hwm c.pageSize := pageCeil_mul _ hp
    _ ≤ hwm := pageCeil_le _ hp

/-- A page advance below the boundary leaves one page less (43_upload_protocol.md R222). -/
theorem pagesFrom_advance {c : Cfg} {boundary cur : Nat} (hp : 0 < c.pageSize) (hcur : cur < boundary) :
    pagesFrom c boundary (cur + c.pageSize) + 1 = pagesFrom c boundary cur := by
  unfold pagesFrom pageCeil
  rw [← Nat.add_div_right _ hp]
  rcases Nat.le_total (cur + c.pageSize) boundary with hfull | hlast
  · congr 1; omega
  · rw [Nat.div_eq_of_lt_le (k := 1) (by omega) (by omega), Nat.div_eq_of_lt_le (k := 1) (by omega) (by omega)]

/-- A legal configuration, as 45_run_sequencer.md R267 tests it. -/
theorem configBad_eq_false_iff {c : Cfg} : configBad c = false ↔ 0 < c.pageSize ∧ c.blSize < c.flSize := by
  simp only [configBad, Bool.or_eq_false_iff, decide_eq_false_iff_not]
  omega

/-- Decoding goes on past no more lines than there are (45_run_sequencer.md R268, R272). -/
theorem lineIdx_lt_of_stays {s t : State} (h : step s = .next t) (hs : s.st = .sDecode) (ht : t.st = .sDecode) :
    s.lineIdx < s.lines.length := by
  by_contra hend
  have hend : s.lines.length ≤ s.lineIdx := Nat.le_of_not_lt hend
  have hstep : step s = .next (goTo .sPlan s) := by
    have hl : s.lines[s.lineIdx]? = none := by simpa using hend
    simp only [step, fetch, hs, fetchLine, hl, runControl, endOfInput, whenAt_pos hs, if_pos hend, goTo]
  rw [hstep] at h
  cases h
  cases ht

/-- Every step before the end brings the end closer. -/
theorem stepsLeft_lt {s t : State} (hi : Inv s) (h : step s = .next t) : stepsLeft t < stepsLeft s := by
  have hterm := not_terminal_of_step h
  cases step_move h with
  | configError hs | configOk hs | badLine hs | dataAbort hs | endOfInput hs | eof hs | acquire hs | initNone hs
  | initSome _ hs | sof _ hs | addr _ hs | page _ hs | crc _ hs | reboot _ hs | pageAck _ hs | pageAckWrong _ hs =>
    simp [stepsLeft, hs]
  | data hs | skip hs =>
    have := lineIdx_lt_of_stays h hs (by simp [hs])
    simp [stepsLeft, hs]
    omega
  | plan hs hp =>
    have hpages := pagesFrom_plan_le s.hwm (firstPage s.cfg) (Nat.pos_of_ne_zero hp)
    have hreach : s.hwm ≤ maxPages := hi.hwmReach
    simp [stepsLeft, hs]
    omega
  | pageDue hs hd =>
    obtain ⟨hp, -⟩ := configBad_eq_false_iff.1 (hi.config_legal hterm (by simp [hs]))
    have := pagesFrom_advance hp hd
    simp [stepsLeft, hs]
    omega
  | pagesDone hs =>
    simp [stepsLeft, hs]
    omega
  | reply _ g e hm | replyWrong _ g e hm =>
    simp only [replyTable, List.mem_cons, Prod.mk.injEq, List.not_mem_nil, or_false] at hm
    rcases hm with ⟨hs, rfl, -⟩ | ⟨hs, rfl, -⟩ | ⟨hs, rfl, -⟩ | ⟨hs, rfl, -⟩ | ⟨hs, rfl, -⟩ <;>
      simp [stepsLeft, hs]

/-- From a state of the invariant the end is reached within the bound. -/
theorem end_within_stepsLeft {s : State} (hi : Inv s) :
    ∃ k, k ≤ stepsLeft s ∧ ∃ t, steps k s = .next t ∧ terminal t.st = true := by
  cases ht : terminal s.st with
  | true => exact ⟨0, Nat.zero_le _, s, rfl, ht⟩
  | false =>
    obtain ⟨hdone, haborted⟩ := not_or.1 (terminal_iff.not.1 (Bool.eq_false_iff.1 ht))
    obtain ⟨u, hu⟩ := runsDoNotStopEarly s hi hdone haborted
    have hlt := stepsLeft_lt hi hu
    obtain ⟨k, hk, t, hrun, hend⟩ := end_within_stepsLeft (hi.preserved hu)
    exact ⟨k + 1, by omega, t, (steps_succ hu).trans hrun, hend⟩
termination_by stepsLeft s

/-! ## The obligations -/

/-- Settles O51: the clauses about the store, the channel, RESULT and the configuration, each kept by every move. -/
theorem stepKeepsInvariant : Obligations.StepKeepsInvariant :=
  fun _ _ hi h => hi.preserved h

/-- Settles O44, by the moves of a step. -/
theorem configurationIsNeverWritten : Obligations.ConfigurationIsNeverWritten :=
  fun _ _ h => (step_move h).supplied_unchanged

/-- Settles O45: a move writes the store in S_DECODE alone, and raises the watermark there. -/
theorem imageIsReadOnlyAfterDecode : Obligations.ImageIsReadOnlyAfterDecode := by
  intro s t h
  rcases (step_move h).store_cases with ⟨himg, hhwm, hrec⟩ | ⟨hs, r, n, -, -, -, -, -, hhwm⟩
  · exact ⟨fun _ => ⟨himg, hhwm, hrec⟩, hhwm.ge⟩
  · exact ⟨fun hne => absurd hs hne, hhwm ▸ le_watermark ..⟩

/-- Settles O46: a move leaves the history alone, sends or reads. -/
theorem channelHistoryOnlyGrows : Obligations.ChannelHistoryOnlyGrows := by
  intro s t h
  rcases (step_move h).history_cases with ⟨hlog, hcnt⟩ | ⟨hc, hlog, hcnt⟩ | ⟨hc, hlog, hcnt⟩
  · exact ⟨⟨[], by simp [hlog]⟩, .inl hcnt, fun hne => hne.elim (absurd hlog) (absurd hcnt)⟩
  · exact ⟨hlog, .inl hcnt, fun _ => hc⟩
  · exact ⟨⟨[], by simp [hlog]⟩, .inr hcnt, fun _ => hc⟩

/-- Settles O54: a result stands in a terminal state only, and no rule is enabled there. -/
theorem outcomeIsFinal : Obligations.OutcomeIsFinal := by
  intro s hi hres
  have hterm : terminal s.st = true := by
    by_contra hn
    exact hres (hi.result_none (Bool.eq_false_of_not_eq_true hn))
  exact (stepRefusesExactlyAtTheEnd s).1.2 (terminal_iff.1 hterm)

/-- Settles O57: the bound on the steps left, at the start of the run. -/
theorem everyRunEnds : Obligations.EveryRunEnds := by
  intro cfg lines ans
  obtain ⟨k, hk, hend⟩ := end_within_stepsLeft (inv_start cfg lines ans)
  have hbound : stepsLeft (State.start cfg lines ans) = lines.length + 8 + 10 * 0x100FD := rfl
  exact ⟨k, hbound ▸ hk, hend⟩

/-- Settles O50: reset is the start of a run with nothing supplied. -/
theorem invariantsHoldAtTheStart : Obligations.InvariantsHoldAtTheStart :=
  ⟨⟨inv_start unsuppliedCfg [] [], uploadInv_start unsuppliedCfg [] []⟩,
    fun cfg lines ans => ⟨inv_start cfg lines ans, uploadInv_start cfg lines ans⟩⟩

/-- Settles O60, by the guard of `supply`. -/
theorem supplyOnlyInIdle : Obligations.SupplyOnlyInIdle :=
  fun _ _ _ _ => ⟨fun hs => if_pos hs, fun hs => if_neg hs⟩

end Sys2Proof.Machine

/-! The statements of 20_memory.md: the order of the bytes on the wire (R65), the image read after a write (R62, R63,
R74), the channel's precondition and answers (R68, R70), and what the rows that store nothing leave unchanged (R79). -/

namespace Sys2Proof.Machine

/-! ## Byte order on the wire (20_memory.md R65) -/

/-- The bytes of a frame are the digits of the value to base 256, the least significant first. -/
theorem le32_toNat (v : BitVec 32) :
    (le32 v).map BitVec.toNat = [v.toNat % 256, v.toNat / 256 % 256, v.toNat / 65536 % 256, v.toNat / 16777216] := by
  have htop : v.toNat / 16777216 < 256 := by omega
  simp [le32, BitVec.extractLsb'_toNat, Nat.shiftRight_eq_div_pow, Nat.mod_eq_of_lt htop]

/-- Adjacent slices put together are one slice, so the four bytes give the value back. -/
theorem le32Value_le32 (v : BitVec 32) : le32Value (le32 v) = some v := by
  have hjoin : v.extractLsb' 24 8 ++ v.extractLsb' 16 8 ++ v.extractLsb' 8 8 ++ v.extractLsb' 0 8 = v := by
    rw [BitVec.extractLsb'_append_extractLsb'_eq_extractLsb' (by rfl),
      BitVec.extractLsb'_append_extractLsb'_eq_extractLsb' (by rfl),
      BitVec.extractLsb'_append_extractLsb'_eq_extractLsb' (by rfl)]
    exact BitVec.extractLsb'_eq_self
  exact congrArg some hjoin

/-! ## The image (20_memory.md R62, R63) -/

theorem imgWrite_below {s : State} {a : Nat} (b : Byte) (h : a < s.cfg.flSize) :
    imgWrite s a b = some { s with image := memWrite s.image a b } := if_pos h

theorem imgWrite_beyond {s : State} {a : Nat} (b : Byte) (h : s.cfg.flSize ≤ a) : imgWrite s a b = none :=
  if_neg (Nat.not_lt.2 h)

/-- Read after write, through the bound CFG.FL_SIZE (20_memory.md R63, R74). -/
theorem imgRead_memWrite {s : State} {a : Nat} (b : Byte) (hw : s.image.wf = true) (ha : a < s.cfg.flSize) (x : Nat) :
    imgRead { s with image := memWrite s.image a b } x = if x = a then b else imgRead s x := by
  simp only [imgRead, memRead_memWrite a b x s.image 0 hw]
  by_cases hx : x = a
  · rw [if_pos hx, if_pos hx, if_pos (hx ▸ ha)]
  · rw [if_neg hx, if_neg hx]

/-! ## The channel (20_memory.md R68, R70) -/

/-- Every row that sends or reads stands under its guard and under CH_OPEN = 1. -/
theorem exec_eq_whenOpen {i : Instr} {s : State} {n : Nat} (hn : i.slot n ≠ .line)
    (hinit : i = .txInit → s.cfg.initSeq ≠ none) :
    ∃ k, exec i s = whenAt (guardOf i) s (whenOpen s k) := by
  cases i with
  | recData | recEof | recSkip => exact absurd rfl hn
  | txInit =>
    obtain ⟨seq, hseq⟩ := Option.ne_none_iff_exists'.1 (hinit rfl)
    simp only [exec, execTxInit, hseq]
    exact ⟨_, rfl⟩
  | _ => exact ⟨_, rfl⟩

/-- A supplied answer is the one a read of its number returns. -/
theorem answerAt_supplied {s : State} {n : Nat} {a : Answer} (h : s.ans[n]? = some a) : answerAt s n = a := by
  simp only [answerAt, h]

/-! ## What the rows that store nothing leave unchanged -/

/-- A meaning answers a next state in its row's state only. -/
theorem guard_of_exec {i : Instr} {s t : State} (h : exec i s = .next t) : s.st = guardOf i := by
  obtain ⟨k, hk⟩ := exec_eq_whenAt i s
  exact (whenAt_next (hk ▸ h)).1

/-- Frames and replies are met while the block owns the channel (10_state.md R41). -/
theorem owningChannel_guardOf {i : Instr} {n : Nat} (hn : i.slot n ≠ .line) : owningChannel (guardOf i) = true := by
  cases i with
  | recData | recEof | recSkip => exact absurd rfl hn
  | _ => rfl

/-- Only RX.ACK at page complete is met in S_PAGE_ACK (43_upload_protocol.md R220). -/
theorem guardOf_eq_sPageAck {i : Instr} (h : guardOf i = .sPageAck) : i = .rxAckPage := by
  cases i with
  | rxAckPage => rfl
  | _ => cases h

/-- The image, the watermark, what the outside layer supplies and the planned pages are the same. -/
structure StoreKept (s t : State) : Prop where
  image : t.image = s.image
  hwm : t.hwm = s.hwm
  goff : t.goff = s.goff
  cfg : t.cfg = s.cfg
  lines : t.lines = s.lines
  ans : t.ans = s.ans
  pageCount : t.pageCount = s.pageCount
  lastBoundary : t.lastBoundary = s.lastBoundary

/-- The place in the page loop is the same (43_upload_protocol.md R222). -/
structure PageKept (s t : State) : Prop where
  curAddr : t.curAddr = s.curAddr
  pageIdx : t.pageIdx = s.pageIdx

/-- Once the block owns the channel no move stores or plans (20_memory.md R79). -/
theorem Move.storeKept {s t : State} (h : Move s t) (ho : owningChannel s.st = true) : StoreKept s t := by
  cases h with
  | data hs | dataAbort hs | plan hs => rw [hs] at ho; cases ho
  | _ => exact ⟨rfl, rfl, rfl, rfl, rfl, rfl, rfl, rfl⟩

/-- The page advance is made in S_PAGE_ACK alone (43_upload_protocol.md R222). -/
theorem Move.pageKept {s t : State} (h : Move s t) (ho : owningChannel s.st = true) (hp : s.st ≠ .sPageAck) :
    PageKept s t := by
  cases h with
  | data hs | dataAbort hs | plan hs => rw [hs] at ho; cases ho
  | pageAck _ hs => exact absurd hs hp
  | _ => exact ⟨rfl, rfl⟩

/-- A frame or a reply stores nothing, and RX.ACK at page complete alone advances the page. -/
theorem exec_channel_kept {i : Instr} {s t : State} {n : Nat} (hn : i.slot n ≠ .line) (h : exec i s = .next t) :
    StoreKept s t ∧ (i ≠ .rxAckPage → PageKept s t) := by
  have hs := guard_of_exec h
  have hm : Move s t := step_move ((step_of_guard hn hs).trans h)
  have ho : owningChannel s.st = true := hs ▸ owningChannel_guardOf hn
  exact ⟨hm.storeKept ho, fun hi => hm.pageKept ho fun hp => hi (guardOf_eq_sPageAck (hs.symm.trans hp))⟩

/-- Every row but REC.DATA stores nothing (40_record_decoder.md R142, R143, 20_memory.md R79). -/
theorem exec_kept {i : Instr} {s t : State} (hi : ∀ r, i ≠ .recData r) (h : exec i s = .next t) :
    StoreKept s t ∧ (i ≠ .rxAckPage → PageKept s t) := by
  cases i with
  | recData r => exact absurd rfl (hi r)
  | recEof r | recSkip r =>
    obtain ⟨-, h⟩ := whenAt_next h
    cases h
    exact ⟨⟨rfl, rfl, rfl, rfl, rfl, rfl, rfl, rfl⟩, fun _ => ⟨rfl, rfl⟩⟩
  | _ => exact exec_channel_kept (n := 0) (by decide) h

/-! ## The obligations -/

/-- Settles O8, by the digits of the value and the join of its slices. -/
theorem fourByteFramesAreLittleEndian : Obligations.FourByteFramesAreLittleEndian :=
  fun v => ⟨le32_toNat v, le32Value_le32 v⟩

/-- Settles O48, by the read after a write of the memory in canonical form. -/
theorem imageReadAfterWrite : Obligations.ImageReadAfterWrite :=
  fun _ a b hw => ⟨imgWrite_beyond b, fun ha =>
    ⟨_, imgWrite_below b ha, rfl, memWrite_wf a b hw, imgRead_memWrite b hw ha⟩⟩

/-- Settles O13: such a row stands under CH_OPEN = 1. -/
theorem closedChannelFaults : Obligations.ClosedChannelFaults := by
  intro i s n hn hs hc hinit
  obtain ⟨k, hk⟩ := exec_eq_whenOpen hn hinit
  rw [hk, whenAt_pos hs, whenOpen_neg hc]

/-- Settles O32, by the supplied answer of number RXCNT. -/
theorem readReturnsAnswerNumberRxCnt : Obligations.ReadReturnsAnswerNumberRxCnt :=
  fun _ _ h => answerAt_supplied h

/-- Settles O33: REC.EOF and REC.SKIP by their meanings, the other rows by the moves of a step. -/
theorem nonStoringRowsFrame : Obligations.NonStoringRowsFrame := by
  intro i s t hi h
  obtain ⟨hstore, hpage⟩ := exec_kept hi h
  exact ⟨imgRead_congr hstore.cfg hstore.image, hstore.image, hstore.hwm, hstore.goff, hstore.cfg, hstore.lines,
    hstore.ans, hstore.pageCount, hstore.lastBoundary, fun hne => ⟨(hpage hne).curAddr, (hpage hne).pageIdx⟩⟩

end Sys2Proof.Machine

/-! The statements of 30_encoding.md: which lines decode and to what (R91, R93), the round trip of every instruction
through its words, the words the spec writes out (R99, R103, R105), and the checksum frame (R102). -/

namespace Sys2Proof.Machine

/-! ## A line and the row its type selects (30_encoding.md R93) -/

/-- The dispatch takes the row of the record's type. -/
theorem typeSelects_iff {r : Record} {i : Instr} : typeSelects r i ↔ i = dispatchRecord r := by
  unfold typeSelects dispatchRecord typeData typeEof
  by_cases h0 : r.rtype = 0x00#8
  · simp [h0]
  · by_cases h1 : r.rtype = 0x01#8
    · simp [h1]
    · simp [h0, h1]

/-- The checksum test on bytes is the one on numbers (40_record_decoder.md R137). -/
theorem checksum_eq_iff {r : Record} : checksum r = r.csum ↔ r.csum.toNat = requiredChecksum r := by
  rw [← checksum_toNat, BitVec.toNat_inj, eq_comm]

/-- Marker, fields and checksum make the line of a record, and its type the instruction. -/
theorem decode_line_iff_fields {l : Line} {i : Instr} :
    decode .line l = .ok i ↔ ∃ r, LineFields l r ∧ r.csum.toNat = requiredChecksum r ∧ typeSelects r i := by
  simp only [decode_line_ok, decodeRecord_ok, checksum_eq_iff, typeSelects_iff, and_assoc]

/-- An instruction read as a line is the row its record's type selects, and its words are that record's line. -/
theorem record_of_line {i : Instr} {n : Nat} (hl : i.slot n = .line) (h : i.wellFormed = true) :
    ∃ r, r.wellFormed = true ∧ typeSelects r i ∧ ∀ o, encode o i = encodeRecord r := by
  cases i with
  | recData r =>
    obtain ⟨hr, ht⟩ : r.wellFormed = true ∧ r.rtype = typeData := by simpa [Instr.wellFormed] using h
    exact ⟨r, hr, .inl ⟨ht, rfl⟩, fun _ => rfl⟩
  | recEof r =>
    obtain ⟨hr, ht⟩ : r.wellFormed = true ∧ r.rtype = typeEof := by simpa [Instr.wellFormed] using h
    exact ⟨r, hr, .inr (.inl ⟨ht, rfl⟩), fun _ => rfl⟩
  | recSkip r =>
    obtain ⟨hr, h0, h1⟩ : r.wellFormed = true ∧ r.rtype ≠ typeData ∧ r.rtype ≠ typeEof := by
      simpa [Instr.wellFormed] using h
    exact ⟨r, hr, .inr (.inr ⟨h0, h1, rfl⟩), fun _ => rfl⟩
  | _ => cases hl

/-! ## Hex text read back (30_encoding.md R90) -/

theorem hexval_hexDigit : ∀ n < 16, hexval (hexDigit n) = some n := by decide

/-- The two characters of a byte give it back: its nibbles are digits below 16 (00_scope.md R15). -/
theorem hexbyte_hexText (b : Byte) (l : Line) : hexbyte (hexText b ++ l) 0 = some b := by
  have hhigh : hexval (hexDigit (b.toNat / 16)) = some (b.toNat / 16) := hexval_hexDigit _ (by omega)
  have hlow : hexval (hexDigit (b.toNat % 16)) = some (b.toNat % 16) := hexval_hexDigit _ (by omega)
  simp [hexbyte, hexText, hhigh, hlow, Nat.div_add_mod]

/-- A character in front of a line moves every field by one position. -/
@[simp] theorem hexbyte_cons (c : Byte) (l : Line) (p : Nat) : hexbyte (c :: l) (p + 1) = hexbyte l p := rfl

/-- Byte `i` of a hex text stands at position `2 * i`. -/
theorem hexbyte_hexTexts (bs : List Byte) : ∀ i, hexbyte (hexTexts bs) (2 * i) = bs[i]? := by
  induction bs with
  | nil => intro i; rfl
  | cons b bs ih =>
    intro i
    cases i with
    | zero => exact hexbyte_hexText b _
    | succ i => exact ih i

theorem hexTexts_append (as bs : List Byte) : hexTexts (as ++ bs) = hexTexts as ++ hexTexts bs := by
  induction as with
  | nil => rfl
  | cons a as ih => simp only [List.cons_append, hexTexts, ih, List.append_assoc]

/-! ## The record encoder (assumption log 13) -/

/-- A record line is the marker and the hex text of the bytes the checksum covers, then of the checksum
(30_encoding.md R90, R94). -/
theorem encodeRecord_eq (r : Record) : encodeRecord r = startMarker :: hexTexts (checkedBytes r ++ [r.csum]) := by
  rw [hexTexts_append]
  simp [encodeRecord, checkedBytes, hexTexts]

theorem hexbyte_encodeRecord (r : Record) (i : Nat) :
    hexbyte (encodeRecord r) (2 * i + 1) = (checkedBytes r ++ [r.csum])[i]? := by
  rw [encodeRecord_eq, hexbyte_cons, hexbyte_hexTexts]

/-- The two bytes of an address put together give it back (20_memory.md R64). -/
theorem addrOf_addrHigh_addrLow (a : BitVec 16) : addrOf (addrHigh a) (addrLow a) = a := by
  unfold addrOf addrHigh addrLow
  rw [BitVec.extractLsb'_append_extractLsb'_eq_extractLsb' (by rfl)]
  exact BitVec.extractLsb'_eq_self

/-- The line of a record has each of its fields where the decoder reads it (30_encoding.md R91). -/
theorem lineFields_encodeRecord {r : Record} (h : r.payload.length = r.len.toNat) :
    LineFields (encodeRecord r) r where
  marker := rfl
  len := hexbyte_encodeRecord r 0
  addr := ⟨addrHigh r.addr, addrLow r.addr, hexbyte_encodeRecord r 1, hexbyte_encodeRecord r 2, by
    rw [← addrOf_toNat, addrOf_addrHigh_addrLow]⟩
  rtype := hexbyte_encodeRecord r 3
  length := h
  payload i hi := by
    rw [show 9 + 2 * i = 2 * (i + 4) + 1 by omega, hexbyte_encodeRecord]
    exact List.getElem?_append_left (by simpa [checkedBytes, h] using hi)
  csum := by
    rw [show 9 + 2 * r.len.toNat = 2 * (r.payload.length + 4) + 1 by omega, hexbyte_encodeRecord]
    exact List.getElem?_concat_length

/-- A well-formed record's line decodes to the row of its type. -/
theorem decode_encodeRecord {r : Record} {i : Instr} (hr : r.wellFormed = true) (hi : typeSelects r i) :
    decode .line (encodeRecord r) = .ok i := by
  obtain ⟨hlen, hsum⟩ : r.payload.length = r.len.toNat ∧ r.csum = checksum r := by
    simpa [Record.wellFormed, Record.lengthOk, Record.checksumOk] using hr
  exact decode_line_iff_fields.2 ⟨r, lineFields_encodeRecord hlen, checksum_eq_iff.1 hsum.symm, hi⟩

/-! ## The checksum frame (43_upload_protocol.md R217) -/

/-- The bytes of a page in ascending order (43_upload_protocol.md R214). -/
theorem imgBytes_eq_map (s : State) (n : Nat) :
    ∀ a, imgBytes s a n = (List.range n).map fun i => imgRead s (a + i) := by
  induction n with
  | zero => intro a; rfl
  | succ n ih =>
    intro a
    rw [imgBytes, ih, List.range_succ_eq_map, List.map_cons, List.map_map]
    simp [Function.comp_def, Nat.add_right_comm, Nat.add_assoc]

/-- With the channel open a frame is appended to TXLOG, and nothing but ST changes besides (20_memory.md R68). -/
theorem sendFrame_open {s : State} (bytes : List Byte) (g : St) (hc : s.chOpen = true) :
    sendFrame bytes g s = .next { s with txLog := s.txLog ++ bytes, st := g } := whenOpen_pos hc

/-! ## The obligations -/

/-- Settles O7: the rows of a record by the fields of its line, the other rows by the frame or reply byte of their
slot. -/
theorem decodeOfEncodeIsTheInstruction : Obligations.DecodeOfEncodeIsTheInstruction := by
  intro i o h
  cases i with
  | recData | recEof | recSkip =>
    obtain ⟨r, hr, ht, he⟩ := record_of_line (n := 0) rfl h
    exact he o ▸ decode_encodeRecord hr ht
  | txData => exact if_pos (beq_self_eq_true o.page.length)
  | _ => rfl

/-- Settles O1, by what a decoded record says of its line and the row its type selects. -/
theorem lineDecodesIffFieldsAndChecksum : Obligations.LineDecodesIffFieldsAndChecksum :=
  fun _ _ => decode_line_iff_fields

/-- Settles O9: H1 and H2 by evaluating the decoder, the frames and replies by the byte of their slot. -/
theorem specWordsDecode : Obligations.SpecWordsDecode :=
  ⟨by decide, by decide, rfl, rfl, rfl, rfl, rfl⟩

/-- Settles O24, by the bytes of the page and the frame sent over the open channel. -/
theorem txCrcSendsThePageChecksum : Obligations.TxCrcSendsThePageChecksum := by
  intro s hs hc
  rw [← imgBytes_eq_map]
  exact (whenAt_pos hs).trans (sendFrame_open _ _ hc)

end Sys2Proof.Machine

/-! The statements of 40_record_decoder.md: how a line is rejected (R131, R133, R137, R139), which characters of it are
read (R136), what a changed payload byte does to the checksum (R144), and the effects of the REC rows (R141 to R143). -/

namespace Sys2Proof.Machine

/-! ## Accepted, mismatched or malformed (40_record_decoder.md R139) -/

/-- Once marker and fields are there, the checksum alone decides (40_record_decoder.md R137). -/
theorem decodeRecord_of_fields {l : Line} {r : Record} (h : LineFields l r) :
    decodeRecord l = if checksum r = r.csum then .ok r else .error (.checksumMismatch (checksum r) r.csum) := by
  obtain ⟨hm, hp⟩ := (parseFields_iff l r).2 h
  simp only [decodeRecord, hm, hp, if_true]

/-- Without the marker or some field the line is malformed, before any checksum is looked at
(40_record_decoder.md R131, R133). -/
theorem decodeRecord_of_no_fields {l : Line} (h : ¬ ∃ r, LineFields l r) :
    decodeRecord l = .error .malformedLine := by
  unfold decodeRecord
  cases hm : hasStartMarker l with
  | false => rfl
  | true =>
    cases hp : parseFields l with
    | none => rfl
    | some r => exact absurd ⟨r, (parseFields_iff l r).1 ⟨hm, hp⟩⟩ h

/-- The decoder sees of a line its marker and fields, and nothing else. -/
theorem decodeRecord_congr {l l' : Line} (h : ∀ r, LineFields l' r ↔ LineFields l r) :
    decodeRecord l' = decodeRecord l := by
  by_cases hf : ∃ r, LineFields l r
  · obtain ⟨r, hr⟩ := hf
    rw [decodeRecord_of_fields hr, decodeRecord_of_fields ((h r).2 hr)]
  · rw [decodeRecord_of_no_fields hf, decodeRecord_of_no_fields (by simpa only [h] using hf)]

/-- A line is rejected exactly where its record is, with the same error. -/
theorem decode_line_error {l : Line} {e : DecodeError} : decode .line l = .error e ↔ decodeRecord l = .error e := by
  show decodeLine l = .error e ↔ _
  unfold decodeLine
  cases decodeRecord l <;> simp

theorem decode_line_congr {l l' : Line} (h : decodeRecord l' = decodeRecord l) : decode .line l' = decode .line l := by
  show decodeLine l' = decodeLine l
  rw [decodeLine, h, decodeLine]

/-- A wrong checksum field is reported with the byte the fields require (40_record_decoder.md R137). -/
theorem decode_line_mismatch {l : Line} {r : Record} (hf : LineFields l r) (hc : checksum r ≠ r.csum) :
    decode .line l = .error (.checksumMismatch (checksum r) r.csum) :=
  decode_line_error.2 ((decodeRecord_of_fields hf).trans (if_neg hc))

/-! ## The characters a record is read from (40_record_decoder.md R136) -/

/-- A hex byte is its two characters. -/
theorem hexbyte_congr {l l' : Line} {p : Nat} (h : l'[p]? = l[p]?) (h' : l'[p + 1]? = l[p + 1]?) :
    hexbyte l' p = hexbyte l p := by
  simp only [hexbyte, h, h']

/-- The fields of a record lie below position `11 + 2 * L`. -/
theorem LineFields.of_agree {l l' : Line} {r : Record} (h : LineFields l r)
    (hag : ∀ p, p < 11 + 2 * r.len.toNat → l'[p]? = l[p]?) : LineFields l' r := by
  have hbyte : ∀ p, p < 10 + 2 * r.len.toNat → hexbyte l' p = hexbyte l p := fun p hp =>
    hexbyte_congr (hag p (by omega)) (hag (p + 1) (by omega))
  obtain ⟨ah, al, hah, hal, haddr⟩ := h.addr
  exact {
    marker := (hag 0 (by omega)).trans h.marker
    len := (hbyte 1 (by omega)).trans h.len
    addr := ⟨ah, al, (hbyte 3 (by omega)).trans hah, (hbyte 5 (by omega)).trans hal, haddr⟩
    rtype := (hbyte 7 (by omega)).trans h.rtype
    length := h.length
    payload := fun i hi => (hbyte (9 + 2 * i) (by omega)).trans (h.payload i hi)
    csum := (hbyte _ (by omega)).trans h.csum }

/-- Lines that agree as far as the first one's length field reaches have the same fields. -/
theorem lineFields_iff_of_agree {l l' : Line} {n : Byte} (hn : hexbyte l 1 = some n)
    (hag : ∀ p, p < 11 + 2 * n.toNat → l'[p]? = l[p]?) (r : Record) : LineFields l' r ↔ LineFields l r := by
  have hn' : hexbyte l' 1 = some n := (hexbyte_congr (hag 1 (by omega)) (hag 2 (by omega))).trans hn
  constructor
  · intro h
    have hlen : r.len = n := Option.some.inj (h.len.symm.trans hn')
    exact h.of_agree fun p hp => (hag p (hlen ▸ hp)).symm
  · intro h
    have hlen : r.len = n := Option.some.inj (h.len.symm.trans hn)
    exact h.of_agree fun p hp => hag p (hlen ▸ hp)

/-! ## One payload byte changed (40_record_decoder.md R144) -/

/-- Two characters rewritten leave every hex byte that has neither of them. -/
theorem hexbyte_set_of_disjoint {l : Line} {p q : Nat} (c d : Byte) (h : p + 1 < q ∨ q + 1 < p) :
    hexbyte ((l.set q c).set (q + 1) d) p = hexbyte l p := by
  apply hexbyte_congr
  · rw [List.getElem?_set_ne (by omega), List.getElem?_set_ne (by omega)]
  · rw [List.getElem?_set_ne (by omega), List.getElem?_set_ne (by omega)]

/-- The record with byte `k` of its payload replaced; every other field is kept, the checksum field too. -/
def setPayloadByte (r : Record) (k : Nat) (b : Byte) : Record := { r with payload := r.payload.set k b }

/-- A line with the characters of one payload byte rewritten has the fields of the record so changed. -/
theorem LineFields.set_payload_byte {l : Line} {r : Record} {k : Nat} {b c d : Byte} (h : LineFields l r)
    (hk : k < r.len.toNat) (hb : hexbyte ((l.set (9 + 2 * k) c).set (9 + 2 * k + 1) d) (9 + 2 * k) = some b) :
    LineFields ((l.set (9 + 2 * k) c).set (9 + 2 * k + 1) d) (setPayloadByte r k b) := by
  have hbyte := fun p => hexbyte_set_of_disjoint (l := l) (p := p) (q := 9 + 2 * k) c d
  obtain ⟨ah, al, hah, hal, haddr⟩ := h.addr
  exact {
    marker := by
      rw [List.getElem?_set_ne (by omega), List.getElem?_set_ne (by omega)]
      exact h.marker
    len := (hbyte 1 (by omega)).trans h.len
    addr := ⟨ah, al, (hbyte 3 (by omega)).trans hah, (hbyte 5 (by omega)).trans hal, haddr⟩
    rtype := (hbyte 7 (by omega)).trans h.rtype
    length := List.length_set.trans h.length
    payload := fun i hi => by
      by_cases hik : i = k
      · subst hik
        exact hb.trans (List.getElem?_set_self (h.length.symm ▸ hk)).symm
      · rw [hbyte _ (by omega), h.payload i hi]
        exact (List.getElem?_set_ne (Ne.symm hik)).symm
    csum := (hbyte _ (.inr (by show _ < 9 + 2 * r.len.toNat; omega))).trans h.csum }

/-- Replacing one byte moves the sum by the difference of the two. -/
theorem byteSum_set (b : Byte) : ∀ (bs : List Byte) (k : Nat) (h : k < bs.length),
    byteSum (bs.set k b) + bs[k] = byteSum bs + b := by
  intro bs
  induction bs with
  | nil => intro k h; cases h
  | cons a bs ih =>
    intro k h
    cases k with
    | zero =>
      show b + byteSum bs + a = a + byteSum bs + b
      ac_rfl
    | succ k =>
      have hk : k < bs.length := Nat.lt_of_succ_lt_succ h
      calc a + byteSum (bs.set k b) + bs[k]
        _ = a + (byteSum (bs.set k b) + bs[k]) := BitVec.add_assoc ..
        _ = a + (byteSum bs + b) := by rw [ih k hk]
        _ = a + byteSum bs + b := (BitVec.add_assoc ..).symm

/-- Different sums require different checksums. -/
theorem twosComplement_inj {s s' : Byte} : twosComplement s = twosComplement s' ↔ s = s' := by
  simp only [twosComplement, ← BitVec.neg_eq_not_add, BitVec.neg_inj]

/-- The checksum required changes with every single byte of the payload (40_record_decoder.md R144). -/
theorem checksum_setPayloadByte_ne {r : Record} {k : Nat} {b : Byte} (hk : k < r.payload.length)
    (hne : r.payload[k] ≠ b) : checksum (setPayloadByte r k b) ≠ checksum r := by
  have hk' : k + 4 < (checkedBytes r).length := Nat.add_lt_add_right hk 4
  have hset : checkedBytes (setPayloadByte r k b) = (checkedBytes r).set (k + 4) b := rfl
  have hsum : byteSum ((checkedBytes r).set (k + 4) b) + r.payload[k] = byteSum (checkedBytes r) + b :=
    byteSum_set b (checkedBytes r) (k + 4) hk'
  intro hc
  rw [checksum, checksum, twosComplement_inj, hset] at hc
  rw [hc, BitVec.add_right_inj] at hsum
  exact hne hsum

/-! ## REC.DATA (40_record_decoder.md R141) -/

/-- With every target legal the record is applied whole (41_image_builder.md R161, 45_run_sequencer.md R269). -/
theorem exec_recData_of_legal {s : State} {r : Record} (hs : s.st = .sDecode)
    (hl : ∀ k, k < r.payload.length → legalTarget s.cfg (targetBase s r + k)) :
    exec (.recData r) s = .next (nextLine (writeAll (targetBase s r) r.payload (latchRecord r s))) := by
  have happly : applyRecord r (latchRecord r s) = (writeAll (targetBase s r) r.payload (latchRecord r s), none) :=
    applyBytes_all _ _ _ fun k hk => targetError_none.2 (hl k hk)
  show execRecData r s = _
  rw [execRecData, whenAt_pos hs, happly]

/-- Whatever REC.DATA answers, it has latched the record and written the first bytes of its payload; then it goes to the
next line or aborts. -/
theorem exec_recData_take {s t : State} {r : Record} (h : exec (.recData r) s = .next t) :
    ∃ n, t = nextLine (writeAll (targetBase s r) (r.payload.take n) (latchRecord r s)) ∨
      ∃ e, t = abort e (writeAll (targetBase s r) (r.payload.take n) (latchRecord r s)) := by
  obtain ⟨-, ⟨-, ht⟩ | ⟨k, e, -, -, -, ht⟩⟩ := execRecData_cases h
  · exact ⟨r.payload.length, .inl (by rwa [List.take_length])⟩
  · exact ⟨k, .inr ⟨e, ht⟩⟩

/-- Outside the addresses written the image reads as before. -/
theorem imgRead_writeAll_outside {s : State} {t a : Nat} {bs : List Byte} (hw : s.image.wf = true)
    (ha : ¬ (t ≤ a ∧ a < t + bs.length)) : imgRead (writeAll t bs s) a = imgRead s a := by
  have hmem : memRead (writeAll t bs s).image a = memRead s.image a :=
    (writeAll_memRead bs t s hw a).trans (dif_neg (by omega))
  simp only [imgRead, writeAll_cfg, hmem]

/-! ## The obligations -/

/-- Settles O2: the fields are there, so the checksum decides. -/
theorem wrongChecksumIsChecksumMismatch : Obligations.WrongChecksumIsChecksumMismatch :=
  fun _ r hf hc => ⟨checksum r, checksum_toNat r, decode_line_mismatch hf (mt checksum_eq_iff.1 hc)⟩

/-- Settles O3: with the fields the answer is the record or a mismatch, without them it is malformed. -/
theorem malformedIffSomeFieldMissing : Obligations.MalformedIffSomeFieldMissing := by
  intro l
  rw [decode_line_error]
  refine ⟨?_, decodeRecord_of_no_fields⟩
  rintro hmal ⟨r, hf⟩
  rw [decodeRecord_of_fields hf] at hmal
  split at hmal <;> cases hmal

/-- Settles O4: both lines have the same fields, which are all the decoder sees. -/
theorem textAfterChecksumIsNotExamined : Obligations.TextAfterChecksumIsNotExamined :=
  fun _ _ _ hn hag => decode_line_congr (decodeRecord_congr (lineFields_iff_of_agree hn hag))

/-- Settles O6: the changed record is read, and it requires another checksum than the one kept. -/
theorem singlePayloadByteChangeIsRejected : Obligations.SinglePayloadByteChangeIsRejected := by
  intro l i r k c d hd hf hk hsome hne
  rw [show 10 + 2 * k = 9 + 2 * k + 1 by omega] at hsome hne ⊢
  obtain ⟨b, hb⟩ := Option.ne_none_iff_exists'.1 hsome
  have hk' : k < r.payload.length := hf.length.symm ▸ hk
  have hbyte : r.payload[k] ≠ b := fun h => hne (by rw [hb, List.getElem?_eq_getElem hk', h])
  have hsum : checksum r = r.csum := by
    obtain ⟨r', hr', -⟩ := decode_line_ok.1 hd
    by_contra hc
    rw [decodeRecord_of_fields hf, if_neg hc] at hr'
    cases hr'
  have hchanged : checksum (setPayloadByte r k b) ≠ r.csum := hsum ▸ checksum_setPayloadByte_ne hk' hbyte
  exact ⟨_, hchanged, decode_line_mismatch (hf.set_payload_byte hk hb) hchanged⟩

/-- Settles O14: the record is applied whole, and what a run of bytes writes reads back. -/
theorem recDataWritesItsPayload : Obligations.RecDataWritesItsPayload := by
  intro s r hs hw hl
  refine ⟨_, exec_recData_of_legal hs hl, ?_, ?_⟩
  · apply State.ext <;> simp [writeAll_hwm, targetBase]
  · exact writeAll_stores (s := latchRecord r s) hw (fun k hk => (hl k hk).1) (by simp) rfl

/-- Settles O17, by the bytes REC.DATA has written on either path. -/
theorem recDataFrame : Obligations.RecDataFrame := by
  intro s t r hw h
  obtain ⟨n, ht⟩ := exec_recData_take h
  have hread : ∀ a, ¬ (targetBase s r ≤ a ∧ a < targetBase s r + r.payload.length) →
      imgRead (writeAll (targetBase s r) (r.payload.take n) (latchRecord r s)) a = imgRead s a := fun a ha =>
    imgRead_writeAll_outside (s := latchRecord r s) hw fun hin =>
      ha ⟨hin.1, hin.2.trans_le (Nat.add_le_add_left (List.length_take_le' ..) _)⟩
  have hwf := writeAll_wf (r.payload.take n) (targetBase s r) (latchRecord r s) hw
  have hhwm : s.hwm ≤ (writeAll (targetBase s r) (r.payload.take n) (latchRecord r s)).hwm :=
    writeAll_hwm .. ▸ le_watermark ..
  rcases ht with rfl | ⟨e, rfl⟩
  · exact ⟨hread, by simp [hwf, hhwm]⟩
  · exact ⟨hread, by simp [hwf, hhwm]⟩

/-- Settles O18: the meaning of REC.EOF under its guard. -/
theorem recEofEndsDecoding : Obligations.RecEofEndsDecoding := fun _ _ hs => whenAt_pos hs

/-- Settles O19: the meaning of REC.SKIP under its guard. -/
theorem recSkipOnlyAdvances : Obligations.RecSkipOnlyAdvances := fun _ _ hs => whenAt_pos hs

end Sys2Proof.Machine

/-! The statements of 41_image_builder.md: a Data record stopped at its first illegal target (R163, R165), the precision
of an abort (60_exceptions.md R306), and the image and the watermark after decoding (R168). -/

namespace Sys2Proof.Machine

/-! ## A record stopped at its first illegal target (41_image_builder.md R161, R163, R165) -/

/-- In strict mode a target out of range is a RangeViolation (41_image_builder.md R163). -/
theorem targetError_strict {s : State} {a : Nat} (hs : s.cfg.strict = true) (ha : a < s.cfg.blSize ∨ s.cfg.flSize ≤ a) :
    targetError s a = some (.rangeViolation a s.lineIdx) := by
  simp [targetError, outOfRange, hs, ha]

/-- Without strict mode a target beyond the flash is a Panic (41_image_builder.md R165; assumption log 9). -/
theorem targetError_lenient {s : State} {a : Nat} (hs : s.cfg.strict = false) (ha : s.cfg.flSize ≤ a) :
    targetError s a = some (.capacityPanic a s.lineIdx) := by
  simp [targetError, hs, ha]

/-- The state a Data record leaves whose byte `k` raises `e`. -/
def stoppedAt (r : Record) (k : Nat) (e : RunError) (s : State) : State :=
  abort e (writeAll (targetBase s r) (r.payload.take k) (latchRecord r s))

/-- REC.DATA with a first illegal target (41_image_builder.md R161). -/
theorem exec_recData_stops {s : State} {r : Record} {k : Nat} {e : RunError} (hs : s.st = .sDecode)
    (hk : k < r.payload.length) (hl : ∀ j, j < k → legalTarget s.cfg (targetBase s r + j))
    (he : targetError s (targetBase s r + k) = some e) : exec (.recData r) s = .next (stoppedAt r k e s) := by
  have happly : applyRecord r (latchRecord r s)
      = (writeAll (targetBase s r) (r.payload.take k) (latchRecord r s), some e) :=
    applyBytes_stop _ _ _ k e hk (fun j hj => targetError_none.2 (hl j hj)) he
  show execRecData r s = _
  rw [execRecData, whenAt_pos hs, happly, stoppedAt]

/-- A stopped record writes REC, IMAGE, HWM and what the abort sets (60_exceptions.md R305, R306). -/
theorem stoppedAt_eq {s : State} {r : Record} {k : Nat} (e : RunError) (hk : k ≤ r.payload.length) :
    stoppedAt r k e s = { s with
      recLatch := r, image := (stoppedAt r k e s).image, hwm := watermark s.hwm (targetBase s r) k,
      result := .fail e, chOpen := false, st := .sAborted } := by
  apply State.ext <;> simp [stoppedAt, writeAll_hwm, hk]

/-- The bytes before the illegal target are in the image, and no other (60_exceptions.md R306). -/
theorem stoppedAt_stores {s : State} {r : Record} {k : Nat} (e : RunError) (hw : s.image.wf = true)
    (hl : ∀ j, j < k → legalTarget s.cfg (targetBase s r + j)) :
    stores s (stoppedAt r k e s) (targetBase s r) (r.payload.take k) :=
  writeAll_stores (s := latchRecord r s) hw
    (fun j hj => (hl j (hj.trans_le (List.length_take_le ..))).1) (by simp [stoppedAt]) rfl

/-! ## A step in S_DECODE (45_run_sequencer.md R268 to R272) -/

/-- The moves of S_DECODE at the line `l`, each with what the line decodes to. -/
inductive LineMove (s : State) (l : Line) : State → Prop where
  | bad (e : DecodeError) (hd : decode .line l = .error e) : LineMove s l (abort (lineError s.lineIdx e) s)
  | data (r : Record) (hd : decode .line l = .ok (.recData r))
      (hl : ∀ k, k < r.payload.length → legalTarget s.cfg (targetBase s r + k)) :
      LineMove s l (nextLine (writeAll (targetBase s r) r.payload (latchRecord r s)))
  | stop (r : Record) (k : Nat) (e : RunError) (hd : decode .line l = .ok (.recData r)) (hk : k < r.payload.length)
      (hl : ∀ j, j < k → legalTarget s.cfg (targetBase s r + j))
      (hill : ¬ legalTarget s.cfg (targetBase s r + k)) : LineMove s l (stoppedAt r k e s)
  | eof (r : Record) (hd : decode .line l = .ok (.recEof r)) : LineMove s l (goTo .sPlan (latchRecord r s))
  | skip (r : Record) (hd : decode .line l = .ok (.recSkip r)) : LineMove s l (nextLine (latchRecord r s))

/-- The instruction of a line makes one of the moves. -/
theorem exec_lineMove {s t : State} {l : Line} {i : Instr} (hd : decode .line l = .ok i)
    (h : exec i s = .next t) : LineMove s l t := by
  cases i with
  | recData r =>
    obtain ⟨-, ⟨hl, rfl⟩ | ⟨k, e, hk, hl, he, rfl⟩⟩ := execRecData_cases h
    · exact .data r hd fun k hk => targetError_none.1 (hl k hk)
    · refine .stop r k e hd hk (fun j hj => targetError_none.1 (hl j hj)) fun hlegal => ?_
      rw [targetError_none.2 hlegal] at he
      cases he
  | recEof r =>
    obtain ⟨-, h⟩ := whenAt_next h
    cases h
    exact .eof r hd
  | recSkip r =>
    obtain ⟨-, h⟩ := whenAt_next h
    cases h
    exact .skip r hd
  | _ => cases guardOf_of_decode_line hd

/-- A step in S_DECODE finds the input at its end, or makes one of the moves at the line LINE_IDX names. -/
theorem step_decode_cases {s t : State} (h : step s = .next t) (hs : s.st = .sDecode) :
    (s.lines.length ≤ s.lineIdx ∧ t = goTo .sPlan s) ∨ ∃ l, s.lines[s.lineIdx]? = some l ∧ LineMove s l t := by
  rcases step_cases h with ⟨h', -⟩ | ⟨h', -⟩ | ⟨-, hend, ht⟩ | ⟨-, l, e, hl, hd, rfl⟩ | ⟨-, l, i, hl, hd, hx⟩ |
    ⟨h', -⟩ | ⟨h', -⟩ | ⟨h', -⟩ | ⟨i, n, hn, h', -⟩
  case inr.inr.inl => exact .inl ⟨hend, ht⟩
  case inr.inr.inr.inl => exact .inr ⟨l, hl, .bad e hd⟩
  case inr.inr.inr.inr.inl => exact .inr ⟨l, hl, exec_lineMove hd hx⟩
  case inr.inr.inr.inr.inr.inr.inr.inr =>
    have ho := owningChannel_guardOf hn
    rw [← h', hs] at ho
    cases ho
  all_goals
    rw [hs] at h'
    cases h'

/-! ## Aborts are precise (60_exceptions.md R305, R306) -/

/-- What a move to S_ABORTED sets, and the registers it keeps in every state. -/
structure AbortKept (s t : State) : Prop where
  failed : ∃ e, t.result = .fail e
  closed : t.chOpen = false
  cfg : t.cfg = s.cfg
  lines : t.lines = s.lines
  ans : t.ans = s.ans
  lineIdx : t.lineIdx = s.lineIdx
  goff : t.goff = s.goff
  pageCount : t.pageCount = s.pageCount
  lastBoundary : t.lastBoundary = s.lastBoundary
  curAddr : t.curAddr = s.curAddr
  pageIdx : t.pageIdx = s.pageIdx
  txLog : t.txLog = s.txLog
  reads : t.rxCnt = s.rxCnt + (if readsReply s.st then 1 else 0)

/-- The states of the reply table read a reply (43_upload_protocol.md R203). -/
theorem readsReply_of_replyTable {g g' : St} {e : RunError} (hm : (g, g', e) ∈ replyTable) : readsReply g = true := by
  have hall : ∀ p ∈ replyTable, readsReply p.1 = true := by decide
  exact hall _ hm

/-- The three aborts without a reply have read nothing, the two at a wrong reply have read that one; no other move leads
to S_ABORTED. -/
theorem Move.abortKept {s t : State} (h : Move s t) (ht : t.st = .sAborted) : AbortKept s t := by
  cases h with
  | configError hs | badLine hs | dataAbort hs => constructor <;> simp [hs, readsReply]
  | replyWrong hc g e hm => constructor <;> simp [readsReply_of_replyTable hm]
  | pageAckWrong hc hs => constructor <;> simp [hs, readsReply]
  | data hs | skip hs => simp [hs] at ht
  | reply hc g e hm =>
    have ho := (owningChannel_of_replyTable hm).2
    rw [show g = .sAborted from ht] at ho
    cases ho
  | _ => cases ht

/-- What an aborting step in S_DECODE has done to IMAGE, HWM and REC: nothing where the line does not decode, else the
bytes before the first illegal target (60_exceptions.md R306). -/
theorem decode_abort_cases {s t : State} (h : step s = .next t) (ht : t.st = .sAborted) (hs : s.st = .sDecode) :
    ∃ l, s.lines[s.lineIdx]? = some l ∧
      ((∃ e, decode .line l = .error e ∧ t = abort (lineError s.lineIdx e) s) ∨
        ∃ r k e, decode .line l = .ok (.recData r) ∧ k < r.payload.length ∧
          (∀ j, j < k → legalTarget s.cfg (targetBase s r + j)) ∧ ¬ legalTarget s.cfg (targetBase s r + k) ∧
          t = stoppedAt r k e s) := by
  rcases step_decode_cases h hs with ⟨-, rfl⟩ | ⟨l, hline, hm⟩
  · cases ht
  · refine ⟨l, hline, ?_⟩
    cases hm with
    | bad e hd => exact .inl ⟨e, hd, rfl⟩
    | stop r k e hd hk hl hill => exact .inr ⟨r, k, e, hd, hk, hl, hill, rfl⟩
    | data | skip => simp [hs] at ht
    | eof => cases ht

/-! ## The writes of the Data records (41_image_builder.md R168) -/

theorem maxWritten_concat (ws : List Host.Cell) (a : Nat) (b : Byte) :
    maxWritten (ws ++ [(a, b)]) = max (maxWritten ws) a := by
  induction ws with
  | nil => simp [maxWritten]
  | cons w ws ih => simp [maxWritten, ih, max_assoc]

theorem lastWritten_concat (x : Nat) (ws : List Host.Cell) (a : Nat) (b : Byte) :
    lastWritten x (ws ++ [(a, b)]) = if x = a then b else lastWritten x ws := by
  induction ws with
  | nil => simp [lastWritten, eq_comm]
  | cons w ws ih =>
    by_cases hx : x = a
    · subst hx; simp [lastWritten, ih]
    · simp [lastWritten, ih, hx]

/-- The image and the watermark are what the writes `ws`, made in order, leave. -/
structure Holds (s : State) (ws : List Host.Cell) : Prop where
  hwm : s.hwm = maxWritten ws
  read : ∀ a, imgRead s a = lastWritten a ws

/-- A move of other registers leaves the writes as they are. -/
theorem Holds.congr {s t : State} {ws : List Host.Cell} (h : Holds s ws) (hc : t.cfg = s.cfg) (hi : t.image = s.image)
    (hh : t.hwm = s.hwm) : Holds t ws :=
  ⟨hh.trans h.hwm, fun a => (imgRead_congr hc hi a).trans (h.read a)⟩

/-- One byte written, at an address within the flash (20_memory.md R62). -/
theorem Holds.write {s : State} {ws : List Host.Cell} (h : Holds s ws) {a : Nat} (b : Byte) (hw : s.image.wf = true)
    (ha : a < s.cfg.flSize) :
    Holds { s with image := memWrite s.image a b, hwm := max s.hwm a } (ws ++ [(a, b)]) where
  hwm := by rw [maxWritten_concat, h.hwm]
  read x := by
    rw [lastWritten_concat, ← h.read]
    exact imgRead_memWrite b hw ha x

/-- A whole payload written, every address within the flash. -/
theorem Holds.writeAll {bs : List Byte} {s : State} {ws : List Host.Cell} {a : Nat} (h : Holds s ws)
    (hw : s.image.wf = true) (hl : ∀ k, k < bs.length → a + k < s.cfg.flSize) :
    Holds (writeAll a bs s) (ws ++ placed a bs) := by
  induction bs generalizing s ws a with
  | nil => simpa [placed, Machine.writeAll] using h
  | cons b bs ih =>
    rw [placed, List.append_cons, Machine.writeAll]
    refine ih (h.write b hw (hl 0 (by simp))) (memWrite_wf a b hw) fun k hk => ?_
    have := hl (k + 1) (by simpa using hk)
    show a + 1 + k < s.cfg.flSize
    omega

/-! ## The run up to S_PLAN -/

/-- The states up to the plan step (45_run_sequencer.md R265). -/
def beforePlan : St → Bool
  | .sIdle => true
  | .sDecode => true
  | .sPlan => true
  | _ => false

/-- The cells the lines from LINE_IDX on are still to write; in S_PLAN there are none left. -/
def pendingWrites (s : State) : List Host.Cell :=
  if s.st = .sPlan then [] else dataWrites (s.lines.drop s.lineIdx)

theorem pendingWrites_of_line {s : State} {l : Line} (hs : s.st = .sDecode) (hline : s.lines[s.lineIdx]? = some l) :
    pendingWrites s = dataWrites (l :: s.lines.drop (s.lineIdx + 1)) := by
  obtain ⟨hlt, rfl⟩ := List.getElem?_eq_some_iff.1 hline
  rw [List.getElem_cons_drop, pendingWrites, hs, if_neg (by decide)]

/-- Decoding so far: the writes made and those pending are together the writes of the input. -/
def DecodeInv (s : State) : Prop := ∃ ws, dataWrites s.lines = ws ++ pendingWrites s ∧ Holds s ws

/-- The states up to the plan step are reached from S_IDLE, through a legal configuration, and from S_DECODE alone. -/
theorem beforePlan_cases {s t : State} (h : step s = .next t) (ht : beforePlan t.st = true) :
    (s.st = .sIdle ∧ t = goTo .sDecode s) ∨ s.st = .sDecode := by
  cases step_move h with
  | configOk hs => exact .inl ⟨hs, rfl⟩
  | endOfInput hs | badLine hs | data hs | dataAbort hs | eof hs | skip hs => exact .inr hs
  | reply hc g e hm =>
    have ho := (owningChannel_of_replyTable hm).2
    rw [goTo_st] at ht
    cases g with
    | sIdle | sDecode | sPlan => cases ho
    | _ => cases ht
  | _ => cases ht

/-- A line turns its pending writes into writes made. -/
theorem DecodeInv.line {s t : State} {l : Line} (hd : DecodeInv s) (hi : Inv s) (hs : s.st = .sDecode)
    (hline : s.lines[s.lineIdx]? = some l) (hm : LineMove s l t) (ht : beforePlan t.st = true) : DecodeInv t := by
  obtain ⟨ws, hws, hold⟩ := hd
  rw [pendingWrites_of_line hs hline] at hws
  cases hm with
  | bad | stop => cases ht
  | data r hd hl =>
    refine ⟨ws ++ placed (targetBase s r) r.payload, ?_, ?_⟩
    · simpa [dataWrites, hd, pendingWrites, hs, targetBase, hi.goffZero] using hws
    · have hlatched : Holds (latchRecord r s) ws := hold.congr rfl rfl rfl
      exact (hlatched.writeAll hi.imageWf fun k hk => (hl k hk).1).congr rfl rfl rfl
  | eof r hd => exact ⟨ws, by simpa [dataWrites, hd, pendingWrites] using hws, hold.congr rfl rfl rfl⟩
  | skip r hd => exact ⟨ws, by simpa [dataWrites, hd, pendingWrites, hs] using hws, hold.congr rfl rfl rfl⟩

/-- Every step up to the plan step keeps the split into writes made and writes pending. -/
theorem DecodeInv.preserved {s t : State} (hd : beforePlan s.st = true → DecodeInv s) (hi : Inv s)
    (h : step s = .next t) (ht : beforePlan t.st = true) : DecodeInv t := by
  rcases beforePlan_cases h ht with ⟨hs, rfl⟩ | hs
  · obtain ⟨ws, hws, hold⟩ := hd (by rw [hs]; rfl)
    exact ⟨ws, by simpa [pendingWrites, hs] using hws, hold.congr rfl rfl rfl⟩
  · have hd := hd (by rw [hs]; rfl)
    rcases step_decode_cases h hs with ⟨hend, rfl⟩ | ⟨l, hline, hm⟩
    · obtain ⟨ws, hws, hold⟩ := hd
      refine ⟨ws, ?_, hold.congr rfl rfl rfl⟩
      simpa [pendingWrites, hs, List.drop_eq_nil_of_le hend, dataWrites] using hws
    · exact hd.line hi hs hline hm ht

/-- At the start nothing is written and the whole input is pending. -/
theorem decodeInv_start (cfg : Cfg) (lines : List Line) (ans : List Answer) :
    DecodeInv (State.start cfg lines ans) :=
  ⟨[], rfl, rfl, fun _ => ite_self _⟩

/-- A run keeps its input, and the split as long as the plan step has not fired. -/
theorem decodeInv_run {cfg : Cfg} {lines : List Line} {ans : List Answer} {k : Nat} {t : State}
    (h : steps k (State.start cfg lines ans) = .next t) :
    t.lines = lines ∧ (beforePlan t.st = true → DecodeInv t) := by
  have hkeep := steps_keep (P := fun s => Inv s ∧ s.lines = lines ∧ (beforePlan s.st = true → DecodeInv s))
    (fun s u ⟨hi, hlines, hd⟩ hstep =>
      ⟨hi.preserved hstep, (configurationIsNeverWritten s u hstep).2.1.trans hlines,
        DecodeInv.preserved hd hi hstep⟩)
    ⟨inv_start cfg lines ans, rfl, fun _ => decodeInv_start cfg lines ans⟩ h
  exact hkeep.2

/-! ## The obligations -/

/-- Settles O15: the record stops at the target the strict test refuses. -/
theorem strictRangeViolationAborts : Obligations.StrictRangeViolationAborts :=
  fun _ _ _ hs hw hstrict hk hl hill =>
    ⟨_, exec_recData_stops hs hk hl (targetError_strict hstrict hill), stoppedAt_eq _ hk.le, stoppedAt_stores _ hw hl⟩

/-- Settles O16: the record stops at the target the capacity test refuses; without strict mode every target below it is
legal. -/
theorem capacityPanicAborts : Obligations.CapacityPanicAborts := by
  intro s r k hs hw hlenient hk hbelow hill
  have hl : ∀ j, j < k → legalTarget s.cfg (targetBase s r + j) := fun j hj =>
    ⟨hbelow j hj, fun hstrict => absurd (hlenient.symm.trans hstrict) Bool.false_ne_true⟩
  exact ⟨_, exec_recData_stops hs hk hl (targetError_lenient hlenient hill), stoppedAt_eq _ hk.le,
    stoppedAt_stores _ hw hl⟩

/-- Settles O42: the registers by the moves to S_ABORTED, the stores of S_DECODE by its line. -/
theorem abortingStepIsPrecise : Obligations.AbortingStepIsPrecise := by
  intro s t h ht
  have hk := (step_move h).abortKept ht
  refine ⟨hk.failed, hk.closed, hk.cfg, hk.lines, hk.ans, hk.lineIdx, hk.goff, hk.pageCount, hk.lastBoundary,
    hk.curAddr, hk.pageIdx, hk.txLog, hk.reads, (imageIsReadOnlyAfterDecode s t h).1, fun hs => ?_⟩
  obtain ⟨l, hline, ⟨e, hd, rfl⟩ | ⟨r, k, e, hd, hlt, hl, hill, rfl⟩⟩ := decode_abort_cases h ht hs
  · exact ⟨l, hline, .inl ⟨⟨e, hd⟩, rfl, rfl, rfl⟩⟩
  · have heq := stoppedAt_eq (s := s) e hlt.le
    exact ⟨l, hline, .inr ⟨r, k, hd, hlt, hl, hill, congrArg State.recLatch heq, congrArg State.hwm heq,
      fun hw => stoppedAt_stores e hw hl⟩⟩

/-- Settles O58: in S_PLAN no write is pending, so the writes made are those of the input. -/
theorem imageAfterDecoding : Obligations.ImageAfterDecoding := by
  intro cfg lines ans k t hrun ht
  obtain ⟨hlines, hd⟩ := decodeInv_run hrun
  obtain ⟨ws, hws, hold⟩ := hd (by rw [ht]; rfl)
  rw [hlines, pendingWrites, if_pos ht, List.append_nil] at hws
  rw [hws]
  exact ⟨hold.hwm, hold.read⟩

end Sys2Proof.Machine

/-! The statements of 42_page_scheduler.md: the ceiling that gives LAST_BOUNDARY, the plan step, and the planned pages as
the multiples of the page size from the first page up to LAST_BOUNDARY. -/

namespace Sys2Proof.Machine

/-! ## The first count (42_page_scheduler.md R181) -/

theorem pageCeil_eq_ceilDiv (x p : Nat) : pageCeil x p = x ⌈/⌉ p := (Nat.ceilDiv_eq_add_pred_div x p).symm

/-- `pageCeil x p` is the least count of pages of size `p` that covers `x` bytes. -/
theorem pageCeil_le_iff {p : Nat} (x m : Nat) (hp : 0 < p) : pageCeil x p ≤ m ↔ x ≤ m * p := by
  rw [pageCeil_eq_ceilDiv, ceilDiv_le_iff_le_mul hp, Nat.mul_comm]

/-! ## The plan step (42_page_scheduler.md R180, R188) -/

/-- In S_PLAN a step is the plan, its guard met. -/
theorem step_of_plan {s : State} (hs : s.st = .sPlan) : step s = planPages s := by
  rw [step, fetch, hs]
  rfl

theorem planPages_of_pageSize_pos {s : State} (hs : s.st = .sPlan) (hp : 0 < s.cfg.pageSize) :
    planPages s = .next { s with
      lastBoundary := pageCeil s.hwm s.cfg.pageSize * s.cfg.pageSize
      pageCount := (pageCeil s.hwm s.cfg.pageSize : Int) - (s.cfg.blSize / s.cfg.pageSize : Nat)
      curAddr := firstPage s.cfg
      st := .sOpen } :=
  (whenAt_pos hs).trans (if_neg hp.ne')

theorem planPages_of_pageSize_zero {s : State} (hs : s.st = .sPlan) (hp : s.cfg.pageSize = 0) :
    planPages s = .fault .pageSizeZero :=
  (whenAt_pos hs).trans (if_pos hp)

/-! ## The planned pages (42_page_scheduler.md R184, R185) -/

/-- The page `k` of the plan starts at a multiple of the page size, `k` pages after the first. -/
theorem plannedPage_eq_mul (c : Cfg) (k : Nat) : plannedPage c k = (c.blSize / c.pageSize + k) * c.pageSize :=
  (Nat.add_mul ..).symm

theorem plannedPage_strictMono {c : Cfg} (hp : 0 < c.pageSize) : StrictMono (plannedPage c) := fun _ _ hlt =>
  Nat.add_lt_add_left (Nat.mul_lt_mul_of_pos_right hlt hp) _

@[simp] theorem length_plannedPages (c : Cfg) (hwm : Nat) : (plannedPages c hwm).length = plannedCount c hwm := by
  rw [plannedPages, List.length_map, List.length_range]

/-- The planned pages are the pages numbered from the first one up to the first count, exclusive. -/
theorem mem_plannedPages {c : Cfg} {hwm p : Nat} : p ∈ plannedPages c hwm ↔
    ∃ m, c.blSize / c.pageSize ≤ m ∧ m < pageCeil hwm c.pageSize ∧ p = m * c.pageSize := by
  simp only [plannedPages, plannedCount, List.mem_map, List.mem_range, plannedPage_eq_mul]
  constructor
  · rintro ⟨k, hk, rfl⟩
    exact ⟨_, Nat.le_add_right .., by omega, rfl⟩
  · rintro ⟨m, hlo, hhi, rfl⟩
    exact ⟨m - c.blSize / c.pageSize, by omega, by rw [Nat.add_sub_cancel' hlo]⟩

/-- The plan ascends, as its pages do. -/
theorem plannedPages_pairwise_lt {c : Cfg} (hwm : Nat) (hp : 0 < c.pageSize) :
    (plannedPages c hwm).Pairwise (· < ·) :=
  List.pairwise_lt_range.map _ fun _ _ hlt => plannedPage_strictMono hp hlt

/-- PAGE_COUNT, cut off at 0, counts the planned pages; the register itself is signed. -/
theorem plannedCount_eq_max (c : Cfg) (hwm : Nat) : (plannedCount c hwm : Int) =
    max 0 ((pageCeil hwm c.pageSize : Int) - (c.blSize / c.pageSize : Nat)) := by
  unfold plannedCount
  omega

/-! ## The obligations -/

/-- Settles O37: with the guard met, only the precondition is left to fail. -/
theorem planWithoutPageSizeStops : Obligations.PlanWithoutPageSizeStops := fun _ hs hp =>
  (step_of_plan hs).trans (planPages_of_pageSize_zero hs hp)

/-- Settles O36: `n0` is the model's ceiling, the least count of pages that covers HWM. -/
theorem planStep : Obligations.PlanStep := fun s hs hp =>
  ⟨pageCeil s.hwm s.cfg.pageSize, (pageCeil_le_iff _ _ hp).1 le_rfl, fun m => (pageCeil_le_iff _ m hp).2,
    (step_of_plan hs).trans (planPages_of_pageSize_pos hs hp)⟩

/-- Settles O41: a multiple of the page size is planned when its page number is in the range of the plan, and page
numbers compare as the addresses do. -/
theorem plannedPagesAreTheRange : Obligations.PlannedPagesAreTheRange := by
  intro c hwm hp
  refine ⟨fun p => ?_, plannedPages_pairwise_lt hwm hp, ?_⟩
  · rw [mem_plannedPages]
    constructor
    · rintro ⟨m, hlo, hhi, rfl⟩
      exact ⟨Nat.dvd_mul_left .., Nat.mul_le_mul_right _ hlo, Nat.mul_lt_mul_of_pos_right hhi hp⟩
    · rintro ⟨⟨m, rfl⟩, hlo, hhi⟩
      rw [Nat.mul_comm c.pageSize m] at hlo hhi ⊢
      exact ⟨m, Nat.le_of_mul_le_mul_right hlo hp, Nat.lt_of_mul_lt_mul_right hhi, rfl⟩
  · rw [length_plannedPages, plannedCount_eq_max]

end Sys2Proof.Machine

/-! The statements of 43_upload_protocol.md: the rows that send (R205, R210, R212, R214, R224) and the rows that read a
reply (R203, R206, R211, R213, R215, R218, R220), the page loop (R209, R222), and what TXLOG and RXCNT hold at every
moment of a run (R226, R227). -/

namespace Sys2Proof.Machine

/-! ## The rows that send -/

/-- A byte of a number's low 32 bits is a byte of the number (43_upload_protocol.md R212). -/
theorem extractLsb'_ofNat_eq (n : Nat) {k : Nat} (hk : k + 8 ≤ 32) :
    (BitVec.ofNat 32 n).extractLsb' k 8 = BitVec.ofNat 8 (n / 2 ^ k) := by
  refine BitVec.eq_of_getLsbD_eq fun i hi => ?_
  have hlt : k + i < 32 := by omega
  simp only [BitVec.getLsbD_extractLsb', BitVec.getLsbD_ofNat, Nat.testBit_div_two_pow, hi, hlt, decide_true,
    Bool.true_and, Nat.add_comm]

/-! ## The rows that read -/

/-- `Expect` in its state with the channel open: the expected byte goes on, any other answer aborts
(43_upload_protocol.md R203). -/
theorem expect_classifies {s : State} {g : St} {e : Byte} {err : RunError} {k : State → State} (hs : s.st = g)
    (hc : s.chOpen = true) :
    (nextAnswer s = .byte e → whenAt g s (expect e err k s) = .next (k (countRead s))) ∧
    (nextAnswer s ≠ .byte e → whenAt g s (expect e err k s) = .next (abort err (countRead s))) := by
  rw [whenAt_pos hs, expect, whenOpen_pos hc]
  exact ⟨fun h => if_pos h, fun h => if_neg h⟩

/-! ## The frames of a page (30_encoding.md R99 to R102) -/

section
variable {s t : State} (hc : t.cfg = s.cfg) (hi : t.image = s.image)
include hc hi

/-- The frames of a page depend on the configuration and the image alone. -/
theorem pageFrames_congr (p : Nat) : pageFrames t p = pageFrames s p := by
  simp only [pageFrames, hc, imgBytes_congr hc hi]

theorem pagePrefix_congr (p j : Nat) : pagePrefix t p j = pagePrefix s p j := by
  rw [pagePrefix, pageFrames_congr hc hi, pagePrefix]

theorem sentPages_congr (n : Nat) : sentPages t n = sentPages s n := by
  simp only [sentPages, hc, pagePrefix_congr hc hi]

end

@[simp] theorem pagePrefix_zero (s : State) (p : Nat) : pagePrefix s p 0 = [] := rfl

/-- One frame more of a page. -/
theorem pagePrefix_succ {s : State} {p j : Nat} {f : List Byte} (hf : (pageFrames s p)[j]? = some f) :
    pagePrefix s p (j + 1) = pagePrefix s p j ++ f := by
  simp [pagePrefix, List.take_add_one, hf]

/-- The four frames are the whole page. -/
theorem pagePrefix_four (s : State) (p : Nat) : pagePrefix s p 4 = (pageFrames s p).flatten := rfl

/-- One byte, four, the page and four (43_upload_protocol.md R227). -/
theorem length_flatten_pageFrames (s : State) (p : Nat) :
    (pageFrames s p).flatten.length = 9 + s.cfg.pageSize := by
  simp [pageFrames, le32, imgBytes_eq_map]
  omega

@[simp] theorem sentPages_zero (s : State) : sentPages s 0 = [] := rfl

/-- One page more: its four frames. -/
theorem sentPages_succ (s : State) (n : Nat) :
    sentPages s (n + 1) = sentPages s n ++ pagePrefix s (plannedPage s.cfg n) 4 := by
  simp [sentPages, List.range_succ]

/-- The bytes of as many pages as are planned are the frames of the planned pages. -/
theorem sentPages_plannedCount (s : State) (hwm : Nat) :
    sentPages s (plannedCount s.cfg hwm) =
      (plannedPages s.cfg hwm).flatMap fun p => (pageFrames s p).flatten := by
  simp only [sentPages, plannedPages, List.flatMap_map, pagePrefix_four]

theorem length_sentPages (s : State) (n : Nat) : (sentPages s n).length = n * (9 + s.cfg.pageSize) := by
  simp only [sentPages, List.length_flatMap, pagePrefix_four, length_flatten_pageFrames]
  simp

/-! ## Where the upload stands (43_upload_protocol.md R226, R227) -/

/-- The INIT bytes, the frames of `n` pages and `j` frames of the page at `p`. -/
def sentBytes (s : State) (n p j : Nat) : List Byte :=
  s.cfg.initSeq.getD [] ++ sentPages s n ++ pagePrefix s p j

/-- What TXLOG is to hold, in the pages of a state with the same configuration and image. -/
theorem expectedTxLog_of_begun {s t : State} (ht : uploadBegun t = true) (hc : t.cfg = s.cfg)
    (hi : t.image = s.image) :
    expectedTxLog t =
      sentBytes s t.pageIdx t.curAddr (framesSent t) ++ if t.st = .sDone then [cmdReboot] else [] := by
  rw [expectedTxLog, if_pos ht, sentPages_congr hc hi, pagePrefix_congr hc hi, hc, sentBytes]

/-- What RXCNT is to count once the upload has begun: five replies a page, and those since the last page. -/
theorem expectedReads_of_begun {s : State} (h : uploadBegun s = true) :
    expectedReads s = 5 * s.pageIdx + (initReads s + repliesRead s) := by
  rw [expectedReads, if_pos h]
  omega

/-- The upload has begun and 0xA2 is not sent. -/
structure Underway (s : State) : Prop where
  begun : uploadBegun s = true
  notDone : s.st ≠ .sDone

/-- From the end of the INIT step to the reboot the upload is under way. -/
theorem underway_of_owning {s : State} (ho : owningChannel s.st = true) (hs : s.st ≠ .sInitTx) : Underway s := by
  cases hst : s.st with
  | sInitTx => exact absurd hst hs
  | sIdle | sDecode | sPlan | sOpen | sDone | sAborted => simp [hst, owningChannel] at ho
  | _ => exact ⟨by simp [uploadBegun, hst], by simp [hst]⟩

theorem Underway.expectedTxLog_eq {s t : State} (ht : Underway t) (hk : StoreKept s t) :
    expectedTxLog t = sentBytes s t.pageIdx t.curAddr (framesSent t) := by
  rw [expectedTxLog_of_begun ht.begun hk.cfg hk.image, if_neg ht.notDone, List.append_nil]

/-- Where the block owns the channel the plan is made. -/
theorem planMade_of_owning {s : State} (ho : owningChannel s.st = true) : planMade s = true := by
  by_cases hs : s.st = .sInitTx
  · simp [planMade, hs]
  · simp [planMade, (underway_of_owning ho hs).begun]

theorem UploadInv.planOk {s : State} (hu : UploadInv s) (ho : owningChannel s.st = true) : PlanOk s :=
  hu.plan (planMade_of_owning ho)

/-- What holds before the INIT step has fired. -/
structure BeforeUpload (s : State) : Prop where
  notBegun : uploadBegun s = false
  logEmpty : s.txLog = []
  noReads : s.rxCnt = 0
  noPages : s.pageIdx = 0

/-- Before the upload the plan, if it is made, has sent no page. -/
theorem UploadInv.beforeUpload {s : State} (hu : UploadInv s) (h : uploadBegun s = false) : BeforeUpload s where
  notBegun := h
  logEmpty := by rw [hu.log, expectedTxLog, h]; rfl
  noReads := by rw [hu.reads, expectedReads, h]; rfl
  noPages := by
    cases hplan : planMade s with
    | false => exact hu.fresh hplan
    | true =>
      have hst : s.st = .sOpen ∨ s.st = .sInitTx := by simpa [planMade, h] using hplan
      exact (hu.plan hplan).none_sent (by rcases hst with hst | hst <;> simp [beforePages, hst])

/-! ## The reply table (43_upload_protocol.md R226) -/

/-- The rows of the reply table as five cases. -/
theorem mem_replyTable {g g' : St} {e : RunError} : (g, g', e) ∈ replyTable ↔
    (g = .sInitAck ∧ g' = .sPageTest ∧ e = .initFailed) ∨ (g = .sSofAck ∧ g' = .sAddrTx ∧ e = .noAck .sof) ∨
    (g = .sAddrAck ∧ g' = .sDataTx ∧ e = .noAck .addr) ∨ (g = .sDataAck ∧ g' = .sCrcTx ∧ e = .noAck .data) ∨
    (g = .sCrcAck ∧ g' = .sPageAck ∧ e = .noAck .checksum) := by
  simp only [replyTable, List.mem_cons, Prod.mk.injEq, List.not_mem_nil, or_false]

/-- No reply is awaited before the INIT bytes. -/
theorem source_ne_sInitTx {g g' : St} {e : RunError} (hm : (g, g', e) ∈ replyTable) : g ≠ .sInitTx := by
  have hall : ∀ p ∈ replyTable, p.1 ≠ .sInitTx := by decide
  exact hall _ hm

/-- An expected reply leads back to no INIT step, nor to an abort. -/
theorem target_of_replyTable {g g' : St} {e : RunError} (hm : (g, g', e) ∈ replyTable) :
    g' ≠ .sInitTx ∧ g' ≠ .sInitAck ∧ g' ≠ .sAborted := by
  have hall : ∀ p ∈ replyTable, p.2.1 ≠ .sInitTx ∧ p.2.1 ≠ .sInitAck ∧ p.2.1 ≠ .sAborted := by decide
  exact hall _ hm

/-- A wrong reply raises an error of the upload (43_upload_protocol.md R200), the one of its state
(60_exceptions.md R302). -/
theorem error_of_replyTable {g g' : St} {e : RunError} (hm : (g, g', e) ∈ replyTable) :
    uploadError e = true ∧ raisedIn e = g := by
  have hall : ∀ p ∈ replyTable, uploadError p.2.2 = true ∧ raisedIn p.2.2 = p.1 := by decide
  exact hall _ hm

/-- The state an expected reply leads to stands in the upload. -/
theorem underway_goTo_of_replyTable {g g' : St} {e : RunError} (hm : (g, g', e) ∈ replyTable) (s : State) :
    Underway (goTo g' s) :=
  underway_of_owning (owningChannel_of_replyTable hm).2 (target_of_replyTable hm).1

/-- An error of S_DECODE is none of the upload (43_upload_protocol.md R200). -/
theorem uploadError_of_raisedIn_sDecode {e : RunError} (h : raisedIn e = .sDecode) : uploadError e = false := by
  cases e with
  | noAck a => cases a <;> cases h
  | initFailed | flashFailed => cases h
  | _ => rfl

/-- A reply, right or wrong, sends no frame. -/
theorem framesSent_of_reply {s : State} {g : St} {e : RunError} (hm : (s.st, g, e) ∈ replyTable) :
    framesSent (goTo g (countRead s)) = framesSent s ∧ framesSent (abort e (countRead s)) = framesSent s := by
  rcases mem_replyTable.1 hm with ⟨hs, rfl, rfl⟩ | ⟨hs, rfl, rfl⟩ | ⟨hs, rfl, rfl⟩ | ⟨hs, rfl, rfl⟩ |
    ⟨hs, rfl, rfl⟩ <;> simp [framesSent, hs]

/-- A reply, right or wrong, is one reply read; the INIT reply counts where CFG.INIT is configured. -/
theorem reads_of_reply {s : State} {g : St} {e : RunError} (hm : (s.st, g, e) ∈ replyTable)
    (hinit : s.st = .sInitAck → s.cfg.initSeq ≠ none) :
    initReads (goTo g (countRead s)) + repliesRead (goTo g (countRead s)) = initReads s + repliesRead s + 1 ∧
    initReads (abort e (countRead s)) + repliesRead (abort e (countRead s)) = initReads s + repliesRead s + 1 := by
  rcases mem_replyTable.1 hm with ⟨hs, rfl, rfl⟩ | ⟨hs, rfl, rfl⟩ | ⟨hs, rfl, rfl⟩ | ⟨hs, rfl, rfl⟩ | ⟨hs, rfl, rfl⟩
  · simp [initReads, repliesRead, hs, Option.isSome_iff_ne_none.2 (hinit hs)]
  all_goals simp [initReads, repliesRead, hs, Nat.add_assoc]

/-! ## Moves up to the channel acquire -/

/-- Up to the channel acquire nothing is sent, read or counted. -/
theorem Move.beforeUpload {s t : State} (h : Move s t) (ho : owningChannel s.st = false) (hu : UploadInv s) :
    BeforeUpload t := by
  cases h with
  | configError hs | configOk hs | endOfInput hs | data hs | eof hs | skip hs | plan hs | acquire hs =>
    obtain ⟨-, hlog, hcnt, hidx⟩ := hu.beforeUpload (by simp [uploadBegun, hs])
    exact ⟨by simp [uploadBegun, uploadError, hs], by simp [hlog], by simp [hcnt], by simp [hidx]⟩
  | badLine hs e he | dataAbort hs r hr k e hk hl hte he =>
    obtain ⟨-, hlog, hcnt, hidx⟩ := hu.beforeUpload (by simp [uploadBegun, hs])
    exact ⟨uploadError_of_raisedIn_sDecode he, by simp [hlog], by simp [hcnt], by simp [hidx]⟩
  | reply _ g e hm | replyWrong _ g e hm => simp [(owningChannel_of_replyTable hm).1] at ho
  | initNone hs | initSome _ hs | sof _ hs | addr _ hs | page _ hs | crc _ hs | reboot _ hs | pageDue hs
  | pagesDone hs | pageAck _ hs | pageAckWrong _ hs => simp [hs, owningChannel] at ho

/-! ## The plan registers and the page loop (43_upload_protocol.md R209, R222) -/

/-- A move that leaves the plan registers and the place in the page loop keeps what is said of them. -/
theorem PlanOk.kept {s t : State} (hp : PlanOk s) (hk : StoreKept s t) (hpage : PageKept s t)
    (hin : pageInFlight t = true → pageInFlight s = true ∨ s.curAddr < s.lastBoundary)
    (hbefore : beforePages t = true → beforePages s = true)
    (hafter : afterPages t = true → afterPages s = true ∨ s.lastBoundary ≤ s.curAddr) : PlanOk t where
  boundary := by rw [hk.lastBoundary, hk.hwm, hk.cfg, hp.boundary]
  count := by rw [hk.pageCount, hk.hwm, hk.cfg, hp.count]
  current := by rw [hpage.curAddr, hk.cfg, hpage.pageIdx, hp.current]
  sent := by rw [hpage.pageIdx, hpage.curAddr, hk.lastBoundary]; exact hp.sent
  inFlight h := by rw [hpage.curAddr, hk.lastBoundary]; exact (hin h).elim hp.inFlight id
  none_sent h := hpage.pageIdx.trans (hp.none_sent (hbefore h))
  all_sent h := by rw [hpage.curAddr, hk.lastBoundary]; exact (hafter h).elim hp.all_sent id

/-- The page advance goes to the next planned page, no further than LAST_BOUNDARY: both are multiples of the page
size. -/
theorem PlanOk.advance {s : State} (hp : PlanOk s) (hs : s.st = .sPageAck) :
    PlanOk (goTo .sPageTest (advancePage (countRead s))) := by
  have hnext : s.curAddr + s.cfg.pageSize = plannedPage s.cfg (s.pageIdx + 1) := by
    rw [hp.current, plannedPage_eq_mul, plannedPage_eq_mul, ← Nat.add_assoc, Nat.succ_mul]
  have hle : s.curAddr + s.cfg.pageSize ≤ s.lastBoundary := by
    have hlt := hp.inFlight (by simp [pageInFlight, hs])
    rw [hp.current, hp.boundary, plannedPage_eq_mul] at hlt
    rw [hnext, hp.boundary, plannedPage_eq_mul, ← Nat.add_assoc]
    exact Nat.mul_le_mul_right _ (Nat.lt_of_mul_lt_mul_right hlt)
  exact ⟨hp.boundary, hp.count, hnext, .inr hle, by simp [pageInFlight], by simp [beforePages], by simp [afterPages]⟩

/-- The plan and the channel acquire leave the registers of the plan, no page sent. -/
theorem Move.planOk_beforeUpload {s t : State} (h : Move s t) (ho : owningChannel s.st = false) (hu : UploadInv s)
    (ht : t.st = .sOpen ∨ t.st = .sInitTx) : PlanOk t := by
  cases h with
  | plan hs hp =>
    have hidx := (hu.beforeUpload (by simp [uploadBegun, hs])).noPages
    exact ⟨rfl, rfl, by simp [plannedPage, hidx], .inl hidx, by simp [pageInFlight], fun _ => hidx,
      by simp [afterPages]⟩
  | acquire hs =>
    exact (hu.plan (by simp [planMade, hs])).kept ⟨rfl, rfl, rfl, rfl, rfl, rfl, rfl, rfl⟩ ⟨rfl, rfl⟩
      (by simp [pageInFlight]) (by simp [beforePages, hs]) (by simp [afterPages])
  | data hs | skip hs => simp [hs] at ht
  | reply _ g e hm => simp [(owningChannel_of_replyTable hm).1] at ho
  | _ => simp at ht

/-- Once the channel is owned every move keeps what is said of the plan: the page loop's test decides whether a page is in
flight or all are sent, and only the page advance moves CUR_ADDR and PAGE_IDX. -/
theorem Move.planOk {s t : State} (h : Move s t) (ho : owningChannel s.st = true) (hu : UploadInv s) : PlanOk t := by
  have hp := hu.planOk ho
  have hk := h.storeKept ho
  have hpage := h.pageKept ho
  cases h with
  | configError hs | configOk hs | endOfInput hs | badLine hs | data hs | dataAbort hs | eof hs | skip hs | plan hs
  | acquire hs => simp [hs, owningChannel] at ho
  | pageAck _ hs => exact hp.advance hs
  | pageAckWrong _ hs =>
    exact hp.kept hk ⟨rfl, rfl⟩ (by simp [pageInFlight, hs]) (by simp [beforePages]) (by simp [afterPages])
  | initNone hs | initSome _ hs | sof _ hs | addr _ hs | page _ hs | crc _ hs | reboot _ hs =>
    exact hp.kept hk (hpage (by simp [hs])) (by simp [pageInFlight, hs]) (by simp [beforePages, hs])
      (by simp [afterPages, hs])
  | pageDue hs hd | pagesDone hs hd =>
    exact hp.kept hk (hpage (by simp [hs])) (by simp [pageInFlight, hd]) (by simp [beforePages])
      (by simp [afterPages, hd])
  | reply _ g e hm | replyWrong _ g e hm =>
    rcases mem_replyTable.1 hm with ⟨hs, rfl, rfl⟩ | ⟨hs, rfl, rfl⟩ | ⟨hs, rfl, rfl⟩ | ⟨hs, rfl, rfl⟩ |
      ⟨hs, rfl, rfl⟩ <;>
    exact hp.kept hk ⟨rfl, rfl⟩ (by simp [pageInFlight, hs]) (by simp [beforePages, hs]) (by simp [afterPages])

/-! ## TXLOG and RXCNT (43_upload_protocol.md R227) -/

/-- Once the channel is owned every move leaves the upload begun. -/
theorem Move.uploadBegun_after {s t : State} (h : Move s t) (ho : owningChannel s.st = true) : uploadBegun t = true := by
  cases h with
  | configError hs | configOk hs | endOfInput hs | badLine hs | data hs | dataAbort hs | eof hs | skip hs | plan hs
  | acquire hs => simp [hs, owningChannel] at ho
  | reply _ g e hm => exact (underway_goTo_of_replyTable hm _).begun
  | replyWrong _ g e hm => exact (error_of_replyTable hm).1
  | _ => rfl

/-- TXLOG in the upload, before a move. -/
theorem UploadInv.log_underway {s : State} (hu : UploadInv s) (hs : Underway s) :
    s.txLog = sentBytes s s.pageIdx s.curAddr (framesSent s) :=
  hu.log.trans (hs.expectedTxLog_eq ⟨rfl, rfl, rfl, rfl, rfl, rfl, rfl, rfl⟩)

/-- A move that sends nothing and leaves the place in the page loop. -/
theorem UploadInv.log_quiet {s t : State} (hu : UploadInv s) (hs : Underway s) (ht : Underway t)
    (hk : StoreKept s t) (hpage : PageKept s t) (hlog : t.txLog = s.txLog) (hf : framesSent t = framesSent s) :
    t.txLog = expectedTxLog t := by
  rw [ht.expectedTxLog_eq hk, hpage.pageIdx, hpage.curAddr, hf, hlog, hu.log_underway hs]

/-- A move that sends the next frame of the page at CUR_ADDR. -/
theorem UploadInv.log_frame {s t : State} {f : List Byte} (hu : UploadInv s) (hs : Underway s) (ht : Underway t)
    (hk : StoreKept s t) (hpage : PageKept s t) (hframe : (pageFrames s s.curAddr)[framesSent s]? = some f)
    (hlog : t.txLog = s.txLog ++ f) (hf : framesSent t = framesSent s + 1) : t.txLog = expectedTxLog t := by
  rw [ht.expectedTxLog_eq hk, hpage.pageIdx, hpage.curAddr, hf, hlog, hu.log_underway hs, sentBytes, sentBytes,
    pagePrefix_succ hframe, List.append_assoc]

/-- TXLOG after a move: the INIT bytes, the next frame, 0xA2 or nothing is added to it; the page advance counts the
page's four frames to the completed pages. -/
theorem Move.log_follows {s t : State} (h : Move s t) (ho : owningChannel s.st = true) (hu : UploadInv s) :
    t.txLog = expectedTxLog t := by
  have hk := h.storeKept ho
  have hpage := h.pageKept ho
  have hunder : s.st ≠ .sInitTx → Underway s := underway_of_owning ho
  have hbegun := h.uploadBegun_after ho
  cases h with
  | configError hs | configOk hs | endOfInput hs | badLine hs | data hs | dataAbort hs | eof hs | skip hs | plan hs
  | acquire hs => simp [hs, owningChannel] at ho
  | initNone hs hi | initSome _ hs seq hi =>
    obtain ⟨-, hlog, -, hidx⟩ := hu.beforeUpload (by simp [uploadBegun, hs])
    simp [expectedTxLog, hbegun, framesSent, hlog, hidx, hi]
  | pageDue hs | pagesDone hs | pageAckWrong _ hs =>
    exact hu.log_quiet (hunder (by simp [hs])) ⟨hbegun, by simp⟩ hk ⟨rfl, rfl⟩ rfl (by simp [framesSent, hs])
  | sof _ hs | addr _ hs | page _ hs | crc _ hs =>
    refine hu.log_frame (hunder (by simp [hs])) ⟨hbegun, by simp⟩ hk (hpage (by simp [hs])) ?_ rfl
      (by simp [framesSent, hs])
    simp [framesSent, hs, pageFrames, pageBytes]
  | reply _ g e hm =>
    exact hu.log_quiet (hunder (source_ne_sInitTx hm)) (underway_goTo_of_replyTable hm _) hk ⟨rfl, rfl⟩ rfl
      (framesSent_of_reply hm).1
  | replyWrong _ g e hm =>
    exact hu.log_quiet (hunder (source_ne_sInitTx hm)) ⟨hbegun, by simp⟩ hk ⟨rfl, rfl⟩ rfl
      (framesSent_of_reply hm).2
  | pageAck _ hs =>
    have hlog := hu.log_underway (hunder (by simp [hs]))
    rw [Underway.expectedTxLog_eq ⟨hbegun, by simp⟩ hk]
    simp [hlog, sentBytes, sentPages_succ, framesSent, hs, (hu.planOk ho).current]
  | reboot _ hs =>
    have hlog := hu.log_underway (hunder (by simp [hs]))
    rw [expectedTxLog_of_begun hbegun hk.cfg hk.image]
    simp [hlog, framesSent, hs]

/-- RXCNT after a move: it counts one reply more where the move reads one. -/
theorem Move.reads_follow {s t : State} (h : Move s t) (ho : owningChannel s.st = true) (hu : UploadInv s) :
    t.rxCnt = expectedReads t := by
  have hbegun := h.uploadBegun_after ho
  have hreads : s.st ≠ .sInitTx → s.rxCnt = 5 * s.pageIdx + (initReads s + repliesRead s) := fun hne =>
    hu.reads.trans (expectedReads_of_begun (underway_of_owning ho hne).begun)
  rw [expectedReads_of_begun hbegun]
  cases h with
  | configError hs | configOk hs | endOfInput hs | badLine hs | data hs | dataAbort hs | eof hs | skip hs | plan hs
  | acquire hs => simp [hs, owningChannel] at ho
  | initNone hs hi | initSome _ hs seq hi =>
    obtain ⟨-, -, hcnt, hidx⟩ := hu.beforeUpload (by simp [uploadBegun, hs])
    simp [initReads, repliesRead, hcnt, hidx, hi]
  | pageDue hs | pagesDone hs | sof _ hs | addr _ hs | page _ hs | crc _ hs | reboot _ hs =>
    simpa [initReads, repliesRead, hs] using hreads (by simp [hs])
  | reply _ g e hm =>
    rw [(reads_of_reply hm fun hs => hu.initAwaited (.inl hs)).1]
    exact congrArg (· + 1) (hreads (source_ne_sInitTx hm))
  | replyWrong _ g e hm =>
    rw [(reads_of_reply hm fun hs => hu.initAwaited (.inl hs)).2]
    exact congrArg (· + 1) (hreads (source_ne_sInitTx hm))
  | pageAck _ hs | pageAckWrong _ hs =>
    have hcnt := hreads (by simp [hs])
    simp [initReads, repliesRead, hs] at hcnt ⊢
    omega

/-- The INIT reply is awaited, or has failed, only where CFG.INIT is configured. -/
theorem Move.initAwaited {s t : State} (h : Move s t) (hu : UploadInv s)
    (ht : t.st = .sInitAck ∨ t.st = .sAborted ∧ t.result = .fail .initFailed) : t.cfg.initSeq ≠ none := by
  cases h with
  | initSome _ hs seq hi => simp [hi]
  | reply _ g e hm =>
    obtain ⟨-, hawait, habort⟩ := target_of_replyTable hm
    simp [hawait, habort] at ht
  | replyWrong _ g e hm =>
    have hinit : e = .initFailed := by simpa using ht
    have hs : s.st = .sInitAck := by rw [← (error_of_replyTable hm).2, hinit]; rfl
    exact hu.initAwaited (.inl hs)
  | badLine _ e he | dataAbort _ _ _ _ e _ _ _ he =>
    have hinit : e = .initFailed := by simpa using ht
    cases hinit ▸ he
  | data hs | skip hs => simp [hs] at ht
  | _ => simp at ht

/-- Every step keeps the protocol invariant. -/
theorem UploadInv.preserved {s t : State} (hu : UploadInv s) (h : step s = .next t) : UploadInv t := by
  have hm := step_move h
  cases ho : owningChannel s.st with
  | true =>
    have hplan : planMade t = true := by rw [planMade, hm.uploadBegun_after ho]; rfl
    exact ⟨hm.log_follows ho hu, hm.reads_follow ho hu, fun _ => hm.planOk ho hu,
      fun hn => absurd hplan (hn ▸ Bool.false_ne_true), hm.initAwaited hu⟩
  | false =>
    obtain ⟨hbegun, hlog, hcnt, hidx⟩ := hm.beforeUpload ho hu
    refine ⟨?_, ?_, fun hplan => ?_, fun _ => hidx, hm.initAwaited hu⟩
    · rw [hlog, expectedTxLog, hbegun]; rfl
    · rw [hcnt, expectedReads, hbegun]; rfl
    · exact hm.planOk_beforeUpload ho hu (by simpa [planMade, hbegun] using hplan)

/-! ## A run that has ended in S_DONE (43_upload_protocol.md R225) -/

/-- With a positive page size, the pages sent once the loop has ended are those of the plan. -/
theorem PlanOk.pageIdx_eq {s : State} (hp : PlanOk s) (hpos : 0 < s.cfg.pageSize) (ha : afterPages s = true) :
    s.pageIdx = plannedCount s.cfg s.hwm := by
  have hall := hp.all_sent ha
  have hsent := hp.sent
  rw [hp.boundary, hp.current, plannedPage_eq_mul, Nat.mul_le_mul_right_iff hpos] at hall hsent
  unfold plannedCount
  omega

/-- The page after the last planned one is LAST_BOUNDARY; with no page planned it is the first page. -/
theorem plannedPage_plannedCount (c : Cfg) (hwm : Nat) :
    plannedPage c (plannedCount c hwm) = max (pageCeil hwm c.pageSize * c.pageSize) (firstPage c) := by
  rw [plannedPage_eq_mul, firstPage, Nat.mul_max_mul_right, plannedCount]
  congr 1
  omega

/-- A run keeps both invariants and its configuration. -/
theorem invariants_run {cfg : Cfg} {lines : List Line} {ans : List Answer} {k : Nat} {t : State}
    (h : steps k (State.start cfg lines ans) = .next t) : Inv t ∧ UploadInv t ∧ t.cfg = cfg :=
  steps_keep (P := fun s => Inv s ∧ UploadInv s ∧ s.cfg = cfg)
    (fun s u ⟨hi, hu, hc⟩ hstep =>
      ⟨hi.preserved hstep, hu.preserved hstep, (configurationIsNeverWritten s u hstep).1.trans hc⟩)
    ⟨inv_start cfg lines ans, uploadInv_start cfg lines ans, rfl⟩ h

/-- In S_DONE the run went past the configuration check. -/
theorem Inv.pageSize_pos_of_done {s : State} (hi : Inv s) (hs : s.st = .sDone) : 0 < s.cfg.pageSize := by
  have hres : s.result = .success := by simpa [resultFits, hs] using hi.resultOk
  rcases hi.configOk with h | h | h
  · simp [hs] at h
  · simp [hres] at h
  · exact (configBad_eq_false_iff.1 h).1

/-! ## The obligations -/

/-- Settles O52, by the moves up to the channel acquire and those after it. -/
theorem stepKeepsUploadInvariant : Obligations.StepKeepsUploadInvariant :=
  fun _ _ hu h => hu.preserved h

/-- Settles O55: in S_DONE the two invariants give the registers and the log of the whole plan. -/
theorem successfulRunOutput : Obligations.SuccessfulRunOutput := by
  intro cfg lines ans k t hrun hs
  obtain ⟨hi, hu, rfl⟩ := invariants_run hrun
  have hbegun : uploadBegun t = true := by simp [uploadBegun, hs]
  have hp : PlanOk t := hu.plan (by simp [planMade, hbegun])
  have hidx := hp.pageIdx_eq (hi.pageSize_pos_of_done hs) (by simp [afterPages, hs])
  have hlog : t.txLog = t.cfg.initSeq.getD [] ++ sentPages t (plannedCount t.cfg t.hwm) ++ [cmdReboot] := by
    rw [hu.log, expectedTxLog_of_begun hbegun rfl rfl, sentBytes, hidx, if_pos hs]
    simp [framesSent, hs]
  refine ⟨by simpa [resultFits, hs] using hi.resultOk, by rw [hi.channel, hs]; rfl, ?_, ?_, ?_, ?_, ?_⟩
  · rw [hidx, hp.count, plannedCount_eq_max]
  · rw [hp.current, hidx, plannedPage_plannedCount, hp.boundary, firstPage]
  · rw [hlog, sentPages_plannedCount]; rfl
  · rw [hlog, List.length_append, List.length_append, length_sentPages, length_plannedPages]; rfl
  · rw [hu.reads, expectedReads_of_begun hbegun, length_plannedPages, ← hidx]
    cases hinit : t.cfg.initSeq <;> simp [initReads, repliesRead, hs, hinit]

/-- Settles O20, by the two branches of CFG.INIT. -/
theorem txInitSendsTheConfiguredSequence : Obligations.TxInitSendsTheConfiguredSequence := by
  intro s hs
  refine ⟨fun hi => ?_, fun seq hi hc => ?_⟩
  · show execTxInit s = _
    rw [execTxInit, whenAt_pos hs, hi]
  · show execTxInit s = _
    rw [execTxInit, whenAt_pos hs, hi]
    have hframe : frameOf s .txInit = seq := by simp [frameOf, encode, frameOperands, hi]
    rw [hframe]
    exact sendFrame_open seq _ hc

/-- Settles O21, by the frame sent over the open channel. -/
theorem txSofSendsA0 : Obligations.TxSofSendsA0 :=
  fun _ hs hc => (whenAt_pos hs).trans (sendFrame_open _ _ hc)

/-- Settles O22: the slices of the 32-bit operand are the bytes of CUR_ADDR. -/
theorem txAddrSendsCurAddrLittleEndian : Obligations.TxAddrSendsCurAddrLittleEndian := by
  intro s hs hc
  have hbytes : frameOf s .txAddr = [BitVec.ofNat 8 s.curAddr, BitVec.ofNat 8 (s.curAddr / 256),
      BitVec.ofNat 8 (s.curAddr / 65536), BitVec.ofNat 8 (s.curAddr / 16777216)] := by
    show le32 (BitVec.ofNat 32 s.curAddr) = _
    simp [le32, extractLsb'_ofNat_eq]
  rw [← hbytes]
  exact (whenAt_pos hs).trans (sendFrame_open _ _ hc)

/-- Settles O23, by the bytes of the page in ascending order. -/
theorem txDataSendsThePage : Obligations.TxDataSendsThePage := by
  intro s hs hc
  rw [← imgBytes_eq_map]
  exact (whenAt_pos hs).trans (sendFrame_open _ _ hc)

/-- Settles O25: under the guard and the open channel the meaning is the state named. -/
theorem txRebootEndsTheRun : Obligations.TxRebootEndsTheRun :=
  fun _ hs hc => (whenAt_pos hs).trans (whenOpen_pos hc)

/-- Settles O26, by `Expect` with 0x01. -/
theorem rxInitAckClassifies : Obligations.RxInitAckClassifies :=
  fun _ hs hc => expect_classifies (k := goTo .sPageTest) hs hc

/-- Settles O27, by `Expect` with 0x55. -/
theorem rxAckSofClassifies : Obligations.RxAckSofClassifies :=
  fun _ hs hc => expect_classifies (k := goTo .sAddrTx) hs hc

/-- Settles O28, by `Expect` with 0x55. -/
theorem rxAckAddrClassifies : Obligations.RxAckAddrClassifies :=
  fun _ hs hc => expect_classifies (k := goTo .sDataTx) hs hc

/-- Settles O29, by `Expect` with 0x55. -/
theorem rxAckDataClassifies : Obligations.RxAckDataClassifies :=
  fun _ hs hc => expect_classifies (k := goTo .sCrcTx) hs hc

/-- Settles O30, by `Expect` with 0x77. -/
theorem rxCrcAckClassifies : Obligations.RxCrcAckClassifies :=
  fun _ hs hc => expect_classifies (k := goTo .sPageAck) hs hc

/-- Settles O31, by `Expect` with 0x55, the page advance its success. -/
theorem rxAckPageAdvancesThePage : Obligations.RxAckPageAdvancesThePage :=
  fun _ hs hc => expect_classifies (k := fun t => goTo .sPageTest (advancePage t)) hs hc

/-- Settles O39, by the two outcomes of the test. -/
theorem pageLoopTest : Obligations.PageLoopTest := by
  intro s hs
  have hstep : step s = .next { s with st := if pageDue s then .sSofTx else .sRebootTx } := by
    rw [step, fetch, hs]
    exact whenAt_pos hs
  rw [hstep]
  refine ⟨fun hlt => ?_, fun hle => ?_⟩
  · simp [pageDue, hlt]
  · simp [pageDue, hle]

end Sys2Proof.Machine

/-! The statements of 45_run_sequencer.md: the rules of the sequencer (R267, R268, R272, R275), the order of the phases
(R265), the run as one function (R278), and the lines after the first EOF record (R273). -/

namespace Sys2Proof.Machine

/-! ## The rules of the sequencer -/

/-- In S_IDLE a step is the configuration check, its guard met. -/
theorem step_of_idle {s : State} (hs : s.st = .sIdle) :
    step s = if configBad s.cfg then .next (abort .configError s) else .next (goTo .sDecode s) := by
  rw [step, fetch, hs]
  exact whenAt_pos hs

/-- A line that does not decode aborts in the step that reads it (45_run_sequencer.md R268). -/
theorem step_of_bad_line {s : State} {l : Line} {e : DecodeError} (hs : s.st = .sDecode)
    (hl : s.lines[s.lineIdx]? = some l) (hd : decode .line l = .error e) :
    step s = .next (abort (lineError s.lineIdx e) s) := by
  simp only [step, fetch, hs, fetchLine, hl, hd]
  exact whenAt_pos hs

/-- With no line left S_DECODE ends (45_run_sequencer.md R272). -/
theorem step_of_input_end {s : State} (hs : s.st = .sDecode) (hend : s.lines.length ≤ s.lineIdx) :
    step s = .next (goTo .sPlan s) := by
  simp only [step, fetch, hs, fetchLine, List.getElem?_eq_none hend]
  exact (whenAt_pos hs).trans (if_pos hend)

/-- In S_OPEN a step is the channel acquire, its guard met. -/
theorem step_of_open {s : State} (hs : s.st = .sOpen) : step s = .next { s with chOpen := true, st := .sInitTx } := by
  rw [step, fetch, hs]
  exact whenAt_pos hs

/-! ## The phases (45_run_sequencer.md R265) -/

/-- While the block owns the channel the run is in the upload. -/
theorem phaseRank_of_owning {g : St} : owningChannel g = true → phaseRank g = 4 := by
  cases g <;> decide

/-- Nothing comes after the end. -/
theorem phaseRank_le_end (g : St) : phaseRank g ≤ 5 := by
  cases g <;> decide

/-- A move stays in its phase, goes on to the next one, or aborts. -/
theorem Move.phase_cases {s t : State} (h : Move s t) :
    phaseRank t.st = phaseRank s.st ∨ phaseRank t.st = phaseRank s.st + 1 ∨ t.st = .sAborted := by
  cases h with
  | configError | badLine | dataAbort | replyWrong | pageAckWrong => exact .inr (.inr rfl)
  | configOk hs | endOfInput hs | eof hs | plan hs | acquire hs | reboot _ hs => exact .inr (.inl (by rw [hs]; rfl))
  | data | skip => exact .inl (by simp)
  | reply _ g e hm =>
    obtain ⟨ho, ho'⟩ := owningChannel_of_replyTable hm
    exact .inl ((phaseRank_of_owning ho').trans (phaseRank_of_owning ho).symm)
  | pageDue hs | pagesDone hs | initNone hs | initSome _ hs | sof _ hs | addr _ hs | page _ hs | crc _ hs
  | pageAck _ hs => exact .inl (by rw [hs]; rfl)

/-! ## What stores and frames do not see -/

/-- The update `f` keeps the registers a store reads, and the stored registers may be written before or after it. -/
structure StoreBlind (f : State → State) : Prop where
  cfg : ∀ s, (f s).cfg = s.cfg
  goff : ∀ s, (f s).goff = s.goff
  lineIdx : ∀ s, (f s).lineIdx = s.lineIdx
  store : ∀ s a b, { f s with image := memWrite (f s).image a b, hwm := max (f s).hwm a } =
    f { s with image := memWrite s.image a b, hwm := max s.hwm a }

theorem storeBlind_goTo (g : St) : StoreBlind (goTo g) :=
  ⟨fun _ => rfl, fun _ => rfl, fun _ => rfl, fun _ _ _ => rfl⟩

/-- The state with other lines. -/
def withLines (ls : List Line) (s : State) : State := { s with lines := ls }

theorem storeBlind_withLines (ls : List Line) : StoreBlind (withLines ls) :=
  ⟨fun _ => rfl, fun _ => rfl, fun _ => rfl, fun _ _ _ => rfl⟩

section
variable {f : State → State} (hf : StoreBlind f)
include hf

/-- The same bytes are written, and the same error is raised, before and after the update. -/
theorem StoreBlind.applyBytes (bs : List Byte) : ∀ (a : Nat) (s : State),
    applyBytes a bs (f s) = Prod.map f id (applyBytes a bs s) := by
  induction bs with
  | nil => intro a s; rfl
  | cons b bs ih =>
    intro a s
    have hte := targetError_congr (hf.cfg s) (hf.lineIdx s) a
    cases he : targetError s a with
    | none =>
      rw [Machine.applyBytes, applyByte_ok b (hte.trans he), Machine.applyBytes, applyByte_ok b he]
      simp only [hf.store, ih]
    | some e =>
      rw [Machine.applyBytes, applyByte_error b (hte.trans he), Machine.applyBytes, applyByte_error b he]
      rfl

/-- A record is applied alike before and after the update (41_image_builder.md R161). -/
theorem StoreBlind.applyRecord (r : Record) (s : State) :
    applyRecord r (f s) = Prod.map f id (applyRecord r s) := by
  rw [Machine.applyRecord, targetBase, hf.goff]
  exact hf.applyBytes ..

end

/-- A frame depends on the configuration, the image and CUR_ADDR alone (30_encoding.md R98 to R103). -/
theorem frameOf_congr {s t : State} (hc : t.cfg = s.cfg) (hi : t.image = s.image) (ha : t.curAddr = s.curAddr)
    (i : Instr) : frameOf t i = frameOf s i := by
  have hpage : pageBytes t = pageBytes s := by
    rw [pageBytes, hc, ha]
    exact imgBytes_congr hc hi ..
  have hop : frameOperands t = frameOperands s := by
    simp only [frameOperands, addrOperand, crcOperand, hpage, hc, ha]
  rw [frameOf, hop, frameOf]

/-! ## Runs that reach a state -/

/-- Some number of steps leads from `s` to `t`. -/
def Reaches (s t : State) : Prop := ∃ k, steps k s = .next t

theorem Reaches.refl (s : State) : Reaches s s := ⟨0, rfl⟩

theorem Reaches.head {s u t : State} (h : step s = .next u) : Reaches u t → Reaches s t
  | ⟨k, hk⟩ => ⟨k + 1, (steps_succ h).trans hk⟩

theorem Reaches.trans {s u t : State} : Reaches s u → Reaches u t → Reaches s t
  | ⟨a, ha⟩, ⟨b, hb⟩ => ⟨a + b, (steps_add ha).trans hb⟩

/-- A run keeps the configuration (10_state.md R27). -/
theorem Reaches.cfg_eq {s t : State} : Reaches s t → t.cfg = s.cfg
  | ⟨_, hk⟩ => steps_keep (P := fun u => u.cfg = s.cfg)
      (fun u v hu h => (configurationIsNeverWritten u v h).1.trans hu) rfl hk

/-- The run from `s` ends in `t`. -/
structure EndsIn (s t : State) : Prop where
  reached : Reaches s t
  ended : terminal t.st = true

theorem EndsIn.head {s u t : State} (h : step s = .next u) (he : EndsIn u t) : EndsIn s t :=
  ⟨he.reached.head h, he.ended⟩

theorem Reaches.endsIn {s u t : State} (h : Reaches s u) (he : EndsIn u t) : EndsIn s t :=
  ⟨h.trans he.reached, he.ended⟩

theorem endsIn_of_step {s t : State} (h : step s = .next t) (ht : terminal t.st = true) : EndsIn s t :=
  .head h ⟨.refl t, ht⟩

/-! ## The upload of the whole run (43_upload_protocol.md R203, R226)

The function of R278 leaves ST alone until the run ends; `goTo` puts its states where the steps are. -/

/-- The row sends its frame and goes on to `g`. -/
structure Sends (i : Instr) (g : St) : Prop where
  noLine : i.slot 0 ≠ .line
  exec_eq : ∀ s, exec i s = whenAt (guardOf i) s (sendFrame (frameOf s i) g s)

/-- The row expects `e`, raises `err` otherwise, and goes on by `k`, which sets ST. -/
structure Expects (i : Instr) (e : Byte) (err : RunError) (k : State → State) : Prop where
  noLine : i.slot 0 ≠ .line
  exec_eq : ∀ s, exec i s = whenAt (guardOf i) s (expect e err k s)
  setsSt : ∀ g s, k (goTo g s) = k s

/-- With the channel open the sender appends its frame to TXLOG and goes on (20_memory.md R68). -/
theorem Sends.step_eq {i : Instr} {g : St} {s : State} (hi : Sends i g) (hc : s.chOpen = true) :
    step (goTo (guardOf i) s) = .next (goTo g (tx (frameOf s i) s)) :=
  calc step (goTo (guardOf i) s)
    _ = exec i (goTo (guardOf i) s) := step_of_guard hi.noLine rfl
    _ = sendFrame (frameOf (goTo (guardOf i) s) i) g (goTo (guardOf i) s) :=
      (hi.exec_eq _).trans (whenAt_pos (goTo_st s _))
    _ = sendFrame (frameOf s i) g (goTo (guardOf i) s) := by
      rw [frameOf_congr (s := s) (t := goTo (guardOf i) s) rfl rfl rfl]
    _ = .next (goTo g (tx (frameOf s i) s)) := sendFrame_open _ _ hc

/-- A state that expects a reply runs `expectThen`, its success going on where the rest of the run does. -/
theorem Expects.endsIn {j : Instr} {e : Byte} {err : RunError} {k rest : State → State} {s : State}
    (hj : Expects j e err k) (hc : s.chOpen = true) (hrest : EndsIn (k (countRead s)) (rest (countRead s))) :
    EndsIn (goTo (guardOf j) s) (expectThen e err s rest) := by
  have hstep := (step_of_guard hj.noLine (goTo_st s _)).trans (hj.exec_eq _)
  obtain ⟨hright, hwrong⟩ := expect_classifies (e := e) (err := err) (k := k) (goTo_st s (guardOf j)) hc
  have hsuccess : k (countRead (goTo (guardOf j) s)) = k (countRead s) := hj.setsSt _ (countRead s)
  rw [expectThen]
  split
  · next ha => exact .head (hstep.trans (hright ha)) (hsuccess ▸ hrest)
  · next ha => exact endsIn_of_step (hstep.trans (hwrong ha)) rfl

/-- A frame sent, then its reply. -/
theorem Sends.exchange_endsIn {i j : Instr} {bytes : List Byte} {e : Byte} {err : RunError} {k rest : State → State}
    {s : State} (hi : Sends i (guardOf j)) (hj : Expects j e err k) (hb : frameOf s i = bytes) (hc : s.chOpen = true)
    (hrest : EndsIn (k (countRead (tx bytes s))) (rest (countRead (tx bytes s)))) :
    EndsIn (goTo (guardOf i) s) (expectThen e err (tx bytes s) rest) :=
  .head (hb ▸ hi.step_eq hc) (hj.endsIn hc hrest)

/-- What the page of `s` leaves to the next one: CUR_ADDR has moved by a page (43_upload_protocol.md R222). -/
structure PageSent (s u : State) : Prop where
  chOpen : u.chOpen = s.chOpen
  cfg : u.cfg = s.cfg
  lastBoundary : u.lastBoundary = s.lastBoundary
  curAddr : u.curAddr = s.curAddr + s.cfg.pageSize

/-- The body of the page loop: four frames with their replies, then the reply to the page. -/
theorem runPage_endsIn {s : State} {rest : State → State} (hc : s.chOpen = true)
    (hrest : ∀ u, PageSent s u → EndsIn (goTo .sPageTest u) (rest u)) :
    EndsIn (goTo .sSofTx s) (runPage s rest) := by
  have hsof : Sends .txSof .sSofAck := ⟨by decide, fun _ => rfl⟩
  have haddr : Sends .txAddr .sAddrAck := ⟨by decide, fun _ => rfl⟩
  have hdata : Sends .txData .sDataAck := ⟨by decide, fun _ => rfl⟩
  have hcrc : Sends .txCrc .sCrcAck := ⟨by decide, fun _ => rfl⟩
  refine hsof.exchange_endsIn (j := .rxAckSof) ⟨by decide, fun _ => rfl, fun _ _ => rfl⟩ rfl (by simp [hc]) ?_
  refine haddr.exchange_endsIn (j := .rxAckAddr) ⟨by decide, fun _ => rfl, fun _ _ => rfl⟩ rfl (by simp [hc]) ?_
  refine hdata.exchange_endsIn (j := .rxAckData) ⟨by decide, fun _ => rfl, fun _ _ => rfl⟩ rfl (by simp [hc]) ?_
  refine hcrc.exchange_endsIn (j := .rxCrcAck) ⟨by decide, fun _ => rfl, fun _ _ => rfl⟩ rfl (by simp [hc]) ?_
  have hpage : Expects .rxAckPage ackByte .flashFailed (fun u => goTo .sPageTest (advancePage u)) :=
    ⟨by decide, fun _ => rfl, fun _ _ => rfl⟩
  exact hpage.endsIn (by simp [hc]) (hrest _ (by constructor <;> simp))

/-- The reboot ends the run (43_upload_protocol.md R224). -/
theorem runReboot_endsIn {s : State} (hc : s.chOpen = true) : EndsIn (goTo .sRebootTx s) (runReboot s) :=
  endsIn_of_step ((step_of_guard (i := .txReboot) (n := 0) (by decide) rfl).trans (txRebootEndsTheRun _ rfl hc)) rfl

/-- The page loop from its test (43_upload_protocol.md R209): as CUR_ADDR moves by at least 1 a page, fuel that covers
the distance to LAST_BOUNDARY suffices. -/
theorem runPages_endsIn (fuel : Nat) : ∀ s : State, s.chOpen = true → 0 < s.cfg.pageSize →
    s.lastBoundary ≤ s.curAddr + fuel → EndsIn (goTo .sPageTest s) (runPages fuel s) := by
  induction fuel with
  | zero => exact fun s hc _ hle => .head ((pageLoopTest _ rfl).2 hle) (runReboot_endsIn hc)
  | succ fuel ih =>
    intro s hc hp hle
    rw [runPages]
    split
    · next hlt =>
      refine .head ((pageLoopTest _ rfl).1 hlt) (runPage_endsIn hc fun u hu => ih u ?_ ?_ ?_)
      · rw [hu.chOpen, hc]
      · rwa [hu.cfg]
      · rw [hu.lastBoundary, hu.curAddr]; omega
    · next hge => exact .head ((pageLoopTest _ rfl).2 (Nat.le_of_not_lt hge)) (runReboot_endsIn hc)

/-- From the channel acquire on, the steps end where `runUpload` does. -/
theorem runUpload_endsIn {s : State} (hp : 0 < s.cfg.pageSize) : EndsIn (goTo .sOpen s) (runUpload s) := by
  refine .head (step_of_open rfl) ?_
  show EndsIn (goTo .sInitTx { s with chOpen := true }) (runUpload s)
  have hpages : ∀ u : State, u.chOpen = true → u.cfg = s.cfg → u.lastBoundary = s.lastBoundary →
      EndsIn (goTo .sPageTest u) (runPages s.lastBoundary u) := fun u hc hcfg hb =>
    runPages_endsIn _ u hc (hcfg ▸ hp) (hb ▸ Nat.le_add_left ..)
  rw [runUpload]
  split
  · next hi =>
    exact .head ((step_of_guard (i := .txInit) (n := 0) (by decide) rfl).trans
      ((txInitSendsTheConfiguredSequence _ rfl).1 hi)) (hpages { s with chOpen := true } rfl rfl rfl)
  · next seq hi =>
    have hreply : Expects .rxInitAck initAckByte .initFailed (goTo .sPageTest) :=
      ⟨by decide, fun _ => rfl, fun _ _ => rfl⟩
    exact .head ((step_of_guard (i := .txInit) (n := 0) (by decide) rfl).trans
      ((txInitSendsTheConfiguredSequence _ rfl).2 seq hi rfl))
      (hreply.endsIn rfl (hpages (countRead (tx seq { s with chOpen := true })) rfl rfl rfl))

/-! ## The lines of the whole run (45_run_sequencer.md R268 to R272) -/

/-- The first of the lines that remain from index `n` on, and those after it. -/
theorem line_of_drop {ls : List Line} {n : Nat} {l : Line} {rest : List Line} (h : ls.drop n = l :: rest) :
    ls[n]? = some l ∧ ls.drop (n + 1) = rest := by
  refine ⟨?_, ?_⟩
  · rw [← Nat.add_zero n, ← List.getElem?_drop, h]
    rfl
  · rw [← List.tail_drop, h]
    rfl

/-- Applying a record leaves LINES and LINE_IDX alone (41_image_builder.md R161). -/
theorem applyRecord_keeps_place (r : Record) (s : State) :
    (applyRecord r s).1.lines = s.lines ∧ (applyRecord r s).1.lineIdx = s.lineIdx := by
  rw [applyRecord]
  rcases applyBytes_cases (targetBase s r) r.payload s with ⟨-, h⟩ | ⟨k, e, -, -, -, h⟩ <;> simp [h]

/-- The run from `s` reaches `t`, where decoding has ended: the plan is next, or the run has ended. -/
structure DecodesTo (s t : State) : Prop where
  reached : Reaches s t
  after : t.st = .sPlan ∨ terminal t.st = true

theorem DecodesTo.head {s u t : State} (h : step s = .next u) (hd : DecodesTo u t) : DecodesTo s t :=
  ⟨hd.reached.head h, hd.after⟩

theorem decodesTo_of_step {s t : State} (h : step s = .next t) (ht : t.st = .sPlan ∨ terminal t.st = true) :
    DecodesTo s t :=
  .head h ⟨.refl t, ht⟩

/-- From S_DECODE the steps take the lines that remain as `runLines` does. -/
theorem runLines_decodesTo (ls : List Line) : ∀ s : State, s.lines.drop s.lineIdx = ls →
    DecodesTo (goTo .sDecode s) (runLines ls s) := by
  induction ls with
  | nil =>
    intro s hls
    exact decodesTo_of_step (step_of_input_end rfl (List.drop_eq_nil_iff.1 hls)) (.inl rfl)
  | cons l ls ih =>
    intro s hls
    obtain ⟨hl, hrest⟩ := line_of_drop hls
    rw [runLines]
    cases hr : decodeRecord l with
    | error e => exact decodesTo_of_step (step_of_bad_line rfl hl (decode_line_error.2 hr)) (.inr rfl)
    | ok r =>
      have hstep := step_of_line (s := goTo .sDecode s) rfl hl (decode_line_ok.2 ⟨r, hr, rfl⟩)
      simp only
      split
      · next he =>
        rw [dispatchRecord, if_neg (by rw [he]; decide), if_pos he] at hstep
        exact decodesTo_of_step (hstep.trans (recEofEndsDecoding _ r rfl)) (.inl rfl)
      split
      · next hne hd =>
        rw [dispatchRecord, if_pos hd] at hstep
        have happly : applyRecord r (latchRecord r (goTo .sDecode s)) = _ :=
          (storeBlind_goTo .sDecode).applyRecord r (latchRecord r s)
        have hstep : step (goTo .sDecode s) = execRecData r (goTo .sDecode s) := hstep
        rw [execRecData, whenAt_pos (goTo_st s _), happly] at hstep
        obtain ⟨hlines, hidx⟩ := applyRecord_keeps_place r (latchRecord r s)
        generalize applyRecord r (latchRecord r s) = p at hstep hlines hidx
        obtain ⟨u, _ | e⟩ := p
        · have hplace : (nextLine u).lines.drop (nextLine u).lineIdx = ls := by
            rw [nextLine_lines, nextLine_lineIdx, show u.lines = s.lines from hlines,
              show u.lineIdx = s.lineIdx from hidx, hrest]
          exact .head hstep (ih (nextLine u) hplace)
        · exact decodesTo_of_step hstep (.inr rfl)
      · next hne hnd =>
        rw [dispatchRecord, if_neg hnd, if_neg hne] at hstep
        exact .head (hstep.trans (recSkipOnlyAdvances _ r rfl)) (ih (nextLine (latchRecord r s)) hrest)

/-- After the plan the run ends where the upload does (42_page_scheduler.md R188). -/
theorem runPlan_endsIn {s : State} (hs : s.st = .sPlan) (hp : 0 < s.cfg.pageSize) :
    EndsIn s (runUpload (runPlan s)) := by
  have hplan : step s = .next (goTo .sOpen (runPlan s)) :=
    (step_of_plan hs).trans (planPages_of_pageSize_pos hs hp)
  exact .head hplan (runUpload_endsIn hp)

/-! ## Other lines after the EOF record (45_run_sequencer.md R271, R273) -/

/-- An outcome with its next state updated. -/
def mapNext (f : State → State) : Out → Out
  | .next s => .next (f s)
  | .fault r => .fault r
  | .refused r => .refused r

section
variable (ls : List Line) (s : State)

@[simp] theorem withLines_cfg : (withLines ls s).cfg = s.cfg := rfl

/-- A guard does not read LINES. -/
theorem whenAt_withLines {g : St} {k k' : Out} (hk : k' = mapNext (withLines ls) k) :
    whenAt g (withLines ls s) k' = mapNext (withLines ls) (whenAt g s k) := by
  by_cases hs : s.st = g
  · rw [whenAt_pos hs, ← hk]; exact whenAt_pos hs
  · rw [whenAt_neg hs]; exact whenAt_neg hs

/-- Nor does the test of CH_OPEN. -/
theorem whenOpen_withLines {k k' : Out} (hk : k' = mapNext (withLines ls) k) :
    whenOpen (withLines ls s) k' = mapNext (withLines ls) (whenOpen s k) := by
  cases hc : s.chOpen with
  | true => rw [whenOpen_pos hc, ← hk]; exact whenOpen_pos hc
  | false => rw [whenOpen_neg hc]; exact whenOpen_neg hc

/-- No frame carries anything of LINES (30_encoding.md R98 to R102). -/
theorem sendFrame_withLines (i : Instr) (g : St) : sendFrame (frameOf (withLines ls s) i) g (withLines ls s) =
    mapNext (withLines ls) (sendFrame (frameOf s i) g s) := by
  rw [frameOf_congr (s := s) (t := withLines ls s) rfl rfl rfl]
  exact whenOpen_withLines ls s rfl

theorem expect_withLines {e : Byte} {err : RunError} {k : State → State}
    (hk : ∀ u, k (withLines ls u) = withLines ls (k u)) :
    expect e err k (withLines ls s) = mapNext (withLines ls) (expect e err k s) := by
  refine whenOpen_withLines ls s ?_
  have hanswer : nextAnswer (withLines ls s) = nextAnswer s := rfl
  rw [hanswer]
  by_cases ha : nextAnswer s = .byte e
  · rw [if_pos ha, if_pos ha]
    exact congrArg Host.Outcome.next (hk (countRead s))
  · rw [if_neg ha, if_neg ha]
    rfl

/-- No instruction reads LINES: an item is read by the decoder. -/
theorem exec_withLines (i : Instr) : exec i (withLines ls s) = mapNext (withLines ls) (exec i s) := by
  cases i with
  | recData r =>
    have happly : applyRecord r (latchRecord r (withLines ls s)) = _ :=
      (storeBlind_withLines ls).applyRecord r (latchRecord r s)
    refine whenAt_withLines ls s ?_
    rw [happly]
    obtain ⟨u, _ | e⟩ := applyRecord r (latchRecord r s)
    · rfl
    · rfl
  | recEof r | recSkip r => exact whenAt_withLines ls s rfl
  | txInit =>
    refine whenAt_withLines ls s ?_
    rw [sendFrame_withLines, withLines_cfg]
    cases s.cfg.initSeq with
    | none => rfl
    | some seq => rfl
  | txSof | txAddr | txData | txCrc => exact whenAt_withLines ls s (sendFrame_withLines ls s _ _)
  | txReboot => exact whenAt_withLines ls s (whenOpen_withLines ls s rfl)
  | rxInitAck | rxAckSof | rxAckAddr | rxAckData | rxCrcAck | rxAckPage =>
    exact whenAt_withLines ls s (expect_withLines ls s fun _ => rfl)

variable {ls s} (hl : ls[s.lineIdx]? = s.lines[s.lineIdx]?)
include hl

/-- Of LINES only the line at LINE_IDX says what fires next (45_run_sequencer.md R268). -/
theorem fetch_withLines : fetch (withLines ls s) = fetch s := by
  have hline : fetchLine (withLines ls s) = fetchLine s := by
    rw [fetchLine, fetchLine, show (withLines ls s).lines[(withLines ls s).lineIdx]? = s.lines[s.lineIdx]? from hl]
  rw [fetch, fetch, hline]
  rfl

/-- The end of the input is where LINE_IDX names no line (45_run_sequencer.md R272). -/
theorem endOfInput_withLines : endOfInput (withLines ls s) = mapNext (withLines ls) (endOfInput s) := by
  refine whenAt_withLines ls s ?_
  have hend : (withLines ls s).lines.length ≤ (withLines ls s).lineIdx ↔ s.lines.length ≤ s.lineIdx := by
    rw [← List.getElem?_eq_none_iff, ← List.getElem?_eq_none_iff]
    exact Eq.congr_left hl
  by_cases h : s.lines.length ≤ s.lineIdx
  · rw [if_pos h, if_pos (hend.2 h)]
    rfl
  · rw [if_neg h, if_neg (hend.not.2 h)]
    rfl

theorem runControl_withLines (c : ControlRule) :
    runControl c (withLines ls s) = mapNext (withLines ls) (runControl c s) := by
  cases c with
  | configCheck =>
    refine whenAt_withLines ls s ?_
    rw [withLines_cfg]
    cases configBad s.cfg with
    | true => rfl
    | false => rfl
  | endOfInput => exact endOfInput_withLines hl
  | plan =>
    refine whenAt_withLines ls s ?_
    rw [withLines_cfg]
    by_cases hp : s.cfg.pageSize = 0
    · rw [if_pos hp, if_pos hp]; rfl
    · rw [if_neg hp, if_neg hp]; rfl
  | acquire | pageTest => exact whenAt_withLines ls s rfl

/-- The line at LINE_IDX is all a step sees of LINES. -/
theorem step_withLines : step (withLines ls s) = mapNext (withLines ls) (step s) := by
  rw [step, fetch_withLines hl, step]
  cases fetch s with
  | instr i => exact exec_withLines ls s i
  | badLine e => exact whenAt_withLines ls s rfl
  | control c => exact runControl_withLines hl c
  | ended => rfl

end

/-- The line at index `n` is an EOF record. -/
def EofAt (ls : List Line) (n : Nat) : Prop := ∃ l r, ls[n]? = some l ∧ decode .line l = .ok (.recEof r)

/-- Only the decode step writes LINE_IDX (45_run_sequencer.md R269, R270). -/
theorem Move.lineIdx_kept {s t : State} (h : Move s t) (hs : s.st ≠ .sDecode) : t.lineIdx = s.lineIdx := by
  cases h with
  | data hd | dataAbort hd | skip hd => exact absurd hd hs
  | _ => rfl

/-- LINE_IDX does not pass an EOF record (45_run_sequencer.md R271). -/
theorem lineIdx_le_of_eof {s t : State} {n : Nat} (heof : EofAt s.lines n) (hn : s.lineIdx ≤ n)
    (h : step s = .next t) : t.lineIdx ≤ n := by
  by_cases hs : s.st = .sDecode
  · rcases step_decode_cases h hs with ⟨-, rfl⟩ | ⟨l, hline, hm⟩
    · exact hn
    obtain ⟨eof, r, hat, hdec⟩ := heof
    have hbefore : decode .line l ≠ .ok (.recEof r) → s.lineIdx + 1 ≤ n := fun hne => by
      refine Nat.lt_of_le_of_ne hn fun heq => hne ?_
      rw [heq, hat] at hline
      exact Option.some.inj hline ▸ hdec
    cases hm with
    | bad | eof => exact hn
    | stop => simpa [stoppedAt] using hn
    | data r hd | skip r hd => simpa using hbefore (by simp [hd])
  · rw [(step_move h).lineIdx_kept hs]
    exact hn

/-- With other lines beyond the EOF record, every step of the run is the same but for LINES. -/
theorem steps_withLines {ls : List Line} {n k : Nat} {s t : State} (heof : EofAt s.lines n) (hn : s.lineIdx ≤ n)
    (hagree : ∀ m, m ≤ n → ls[m]? = s.lines[m]?) (h : steps k s = .next t) :
    steps k (withLines ls s) = .next (withLines ls t) := by
  induction k generalizing s with
  | zero => rw [steps_zero h]; rfl
  | succ k ih =>
    obtain ⟨u, hu, hrest⟩ := steps_inv h
    have hlines : u.lines = s.lines := (configurationIsNeverWritten s u hu).2.1
    have hstep : step (withLines ls s) = .next (withLines ls u) := by
      rw [step_withLines (hagree _ hn), hu]
      rfl
    rw [steps_succ hstep]
    exact ih (hlines ▸ heof) (lineIdx_le_of_eof heof hn hu) (hlines ▸ hagree) hrest

/-! ## The obligations -/

/-- Settles O47, by the phase each move leads to. -/
theorem phasesPassInOrder : Obligations.PhasesPassInOrder := by
  intro s t h
  rcases (step_move h).phase_cases with hp | hp | ht
  · exact ⟨by omega, fun _ => by omega⟩
  · exact ⟨by omega, fun _ => by omega⟩
  · exact ⟨ht ▸ phaseRank_le_end s.st, fun hne => absurd ht hne⟩

/-- Settles O34: the check fails exactly where the configuration is illegal. -/
theorem configurationCheck : Obligations.ConfigurationCheck := by
  intro s hs
  rw [step_of_idle hs]
  refine ⟨fun hbad => if_pos ?_, fun hok => if_neg ?_⟩
  · simpa [configBad] using hbad
  · simpa [configBad] using hok

/-- Settles O56: the steps check the configuration, decode, plan and upload as the nested loops do. -/
theorem stepsComputeTheWholeRun : Obligations.StepsComputeTheWholeRun := by
  intro cfg lines ans
  have hend : EndsIn (State.start cfg lines ans) (wholeRun cfg lines ans) := by
    rw [wholeRun]
    split
    · next hbad => exact endsIn_of_step ((configurationCheck _ rfl).1 hbad) rfl
    · next hok =>
      have hdecode :=
        (runLines_decodesTo lines (State.start cfg lines ans) rfl).head ((configurationCheck _ rfl).2 hok)
      have hcfg : (runLines lines (State.start cfg lines ans)).cfg = cfg := hdecode.reached.cfg_eq
      simp only
      split
      · next hs => exact hdecode.reached.endsIn (runPlan_endsIn hs (by rw [hcfg]; omega))
      · next hs => exact ⟨hdecode.reached, hdecode.after.resolve_left hs⟩
  exact ⟨hend.reached, hend.ended⟩

/-- Settles O59: LINE_IDX stays at or before the EOF record, where the two inputs agree. -/
theorem linesAfterEofAreNeverExamined : Obligations.LinesAfterEofAreNeverExamined := by
  intro cfg front rest rest' eof r ans k t hd hrun
  have hprefix : ∀ (tail : List Line) (m : Nat), m ≤ front.length →
      (front ++ eof :: tail)[m]? = (front ++ [eof])[m]? := fun tail m hm => by
    rw [List.append_cons, List.getElem?_append_left (by simpa using Nat.lt_succ_of_le hm)]
  refine steps_withLines (n := front.length) ⟨eof, r, ?_, hd⟩ (Nat.zero_le _) (fun m hm => ?_) hrun
  · simp [State.start]
  · exact (hprefix rest' m hm).trans (hprefix rest m hm).symm

/-- Settles O11, by the error each rejection of the decoder raises. -/
theorem undecodableLineAborts : Obligations.UndecodableLineAborts :=
  fun _ _ hs hl => ⟨fun hd => step_of_bad_line hs hl hd, fun _ _ hd => step_of_bad_line hs hl hd⟩

/-- Settles O35: no line is left to fetch. -/
theorem endOfInputGoesToPlan : Obligations.EndOfInputGoesToPlan := fun _ hs hend => step_of_input_end hs hend

/-- Settles O38: the acquire under its guard. -/
theorem channelAcquire : Obligations.ChannelAcquire := fun _ hs => step_of_open hs

end Sys2Proof.Machine

/-! The statement of 60_exceptions.md on where errors come from: each error in the state R302 names for it (R290). -/

namespace Sys2Proof.Machine

/-! ## Where an error is raised (60_exceptions.md R302) -/

/-- What a move can do to RESULT: keep it, set Success, or raise an error in the state named for it and abort. -/
theorem Move.error_cases {s t : State} (h : Move s t) :
    t.result = s.result ∨ t.result = .success ∨
    ∃ e, t.result = .fail e ∧ s.st = raisedIn e ∧ t.st = .sAborted := by
  cases h with
  | configError hs | pageAckWrong _ hs => exact .inr (.inr ⟨_, rfl, hs, rfl⟩)
  | badLine hs e he | dataAbort hs _ _ _ e _ _ _ he => exact .inr (.inr ⟨e, rfl, hs.trans he.symm, rfl⟩)
  | replyWrong _ _ e hm => exact .inr (.inr ⟨e, rfl, (error_of_replyTable hm).2.symm, rfl⟩)
  | reboot => exact .inr (.inl rfl)
  | data | skip => exact .inl (by simp)
  | _ => exact .inl rfl

/-! ## The obligations -/

/-- Settles O43: a RESULT `Fail(e)` the step did not find is the error its move raises. -/
theorem errorsAreRaisedWhereNamed : Obligations.ErrorsAreRaisedWhereNamed := by
  intro s t e h ht hne
  rcases (step_move h).error_cases with hkept | hsuccess | ⟨e', hfail, hraised, habort⟩
  · exact absurd (hkept.symm.trans ht) hne
  · cases hsuccess.symm.trans ht
  · cases hfail.symm.trans ht
    exact ⟨hraised, habort⟩

end Sys2Proof.Machine

/-! The statement of 70_reset_and_hazards.md: the value of every register after reset (R330). -/

namespace Sys2Proof.Machine

/-! ## The image at reset (70_reset_and_hazards.md R330) -/

/-- An image with no byte listed reads as the fill byte everywhere. -/
@[simp] theorem memRead_nil (a : Nat) : memRead [] a = unlistedByte := rfl

/-- Reset lists no byte, so the whole image reads as 0x00. -/
theorem memRead_reset_image (a : Nat) : memRead State.reset.image a = 0x00#8 := memRead_nil a

/-! ## The obligations -/

/-- Settles O49: a register is the field `State.reset` gives it, and the image is read byte by byte. -/
theorem resetValues : Obligations.ResetValues :=
  ⟨rfl, rfl, rfl, rfl, rfl, rfl, rfl, rfl, rfl, rfl, memRead_reset_image, rfl, rfl⟩

end Sys2Proof.Machine
